-- ==== Sys2Proof/Word.lean ====
section
/-! DEFINITION. Sys2Proof/Word.lean: the word types of the NL7.  Bits in, bits out; every meaning is built over
these. -/

namespace Sys2Proof

/-- 64 bits: a control register, an address, a doubleword of memory. -/
abbrev Word := BitVec 64

/-- 32 bits: a lane register, a mask over the 32 lanes, a control word. -/
abbrev Word32 := BitVec 32

/-- One byte of memory. -/
abbrev Byte := BitVec 8

/-- A significance tag (R260): six bits. -/
abbrev Tag := BitVec 6

/-- The bits of a lane word (R309). -/
abbrev LaneWord := BitVec 96

end Sys2Proof
end

