-- ==== Sys2Proof/Config.lean ====
section
/-! DEFINITION. Sys2Proof/Config.lean: what the spec leaves open.  Every constant here is opaque and has no body:
nothing can evaluate it or prove a value of it, so a statement that mentions one holds whatever it is.  The model
applies them to the operands they depend on, or to the counter `State.free`, which every step advances. -/

namespace Sys2Proof.Config

/-- A byte of a team's scratchpad that nothing has written (R91), by location. -/
opaque freeScratch : Nat → Byte

/-- A byte of a host line whose data a link failure lost (R62): by the counter and the location. -/
opaque freeHost : Nat → Nat → Byte

/-- An element of an accumulator slot that nothing has written (R91): by epoch and element, its bits. -/
opaque freeElemBits : Nat → Nat → Word32

/-- The same element's tag. -/
opaque freeElemTag : Nat → Nat → Tag

/-- The same element's abs-sum byte. -/
opaque freeElemAbs : Nat → Nat → Byte

/-- A choice that the spec leaves to the part and that no operand decides: by the counter of free values, and by a
number that tells the choices of one step apart. -/
opaque choice : Nat → Nat → Nat

/-- Whether the host completes a PCIe AtomicOp with a status other than Successful Completion (R60): by the counter
and the lane, 32 for the control stream. -/
opaque atomicRefused : Nat → Nat → Bool


/-- Which entry of a CONTIG block the TLB uses (R159): by the counter and the virtual address; 16 and above stand for
the address's own entry. -/
opaque contigEntry : Nat → Nat → Nat

/-- The part's error in a transcendental result (R380): by function, operand, rounding mode and lane FMT, in units
of one 2^40-th of the allowed bound; the model keeps it inside the bound. -/
opaque transcendentalError : Nat → Word32 → Nat → Word32 → Int

/-- Whether FMIN, FMAX or a reduction takes the first of two equal operands (R2, R378, R402): by the operation, lane FMT,
and the bits and the tag of each operand. -/
opaque equalPick : Nat → Word32 → Nat → Nat → Nat → Nat → Bool

/-- SHA-384 of the firmware image with this index, at this boot (R38). -/
opaque imageHash : Nat → Nat → BitVec 384


/-- SHA-384 of a byte string (R38). -/
opaque sha384 : List Byte → BitVec 384

/-- ECDSA P-384 signature of a byte string by the alias key of this boot (R37). -/
opaque aliasSign : Nat → List Byte → BitVec 768

/-- The X.509 certificate chain of this boot: Amundef root, identity, alias (R38). -/
opaque certificateChain : Nat → List Byte

end Sys2Proof.Config
end

