-- ==== Sys2Proof/Syntax.lean ====
section
/-! DEFINITION. Sys2Proof/Syntax.lean: the instructions of the NL7 as data, one constructor per row of the
opcode table (spec/opcode_table.json).  Three kinds of row stand there:

* machine events (chapters 01 to 04, 06, 08 and 11), which no word encodes.  Their parameters say which agent the
  event happens to and carry what comes from outside the machine (a host write's address and value, a packet);
* control words (32 bits, R299-R308), whose parameters are the fields of the word, named as the table names them;
* lane words (96 bits, R309-R313), which all carry one record of fields (`LaneFields`).

Syntax gives no meaning: the machine alone does. -/

namespace Sys2Proof

/-- R310: what a 10-bit operand specifier names. -/
inductive Operand where
  /-- `vn`, a vector register. -/
  | v (n : BitVec 8)
  /-- `on`, an operand register. -/
  | o (n : BitVec 4)
  /-- `ln`, a last-result register (R130). -/
  | l (n : BitVec 2)
  /-- `an`, an argument register of the block (R131). -/
  | a (n : BitVec 3)
  /-- The word's own 32-bit immediate (R311). -/
  | imm
  /-- The constant 0 in the type of the read. -/
  | zero
  /-- The constant 1 in the type of the read. -/
  | one
  /-- The lane's index, 0 to 31 (R115). -/
  | laneid
  /-- The lane's quad, 0 to 7 (R115). -/
  | quadid
  /-- The group's index in its team (R115). -/
  | groupid
  deriving DecidableEq, Repr

/-- R309: the guard of a lane word: mask register `m`, negated or not. -/
structure Guard where
  /-- `(!mN)`. -/
  neg : Bool
  /-- The mask register. -/
  m : BitVec 3
  deriving DecidableEq, Repr

/-- R309: the fields of a lane word other than its major opcode.  A specifier field that the instruction does not
read is `v 0`, whose ten bits are zero (R310).  In the memory class `rnd` and `sat` together are ORD (R312):
`rnd[2]` is ACQ, `rnd[1]` is REL and `rnd[0] sat` the scope code. -/
structure LaneFields where
  /-- [87:84] form, condition, width or source code. -/
  sub : BitVec 4
  /-- [83:80]. -/
  guard : Guard
  /-- [79:70] destination specifier. -/
  dst : Operand
  /-- [69:60] first source. -/
  a : Operand
  /-- [59:50] second source. -/
  b : Operand
  /-- [49:40] third source. -/
  c : Operand
  /-- [39:36] width or format code. -/
  ty : BitVec 4
  /-- [35:33] rounding code (R253). -/
  rnd : BitVec 3
  /-- [32] integer saturation. -/
  sat : BitVec 1
  /-- [31:0]. -/
  imm : BitVec 32
  deriving DecidableEq, Repr

/-- R274: what stops at the halt line, or at a debugger's broadcast. -/
inductive StopUnit where
  /-- A group, by key. -/
  | group (key : Nat)
  /-- The matrix engine of a core, for the commands of one partition. -/
  | matrix (part core : Nat)
  /-- The copy engine of a core. -/
  | copy (part core : Nat)
  /-- The network engine, for one partition. -/
  | network (part : Nat)
  /-- The task machine of a partition. -/
  | tasks (part : Nat)
  deriving DecidableEq, Repr

/-- R36: a firmware image that the boot chain meets: whether its signature verifies, and its security version number. -/
structure Firmware where
  /-- Its HSS signature verifies against the key that the chain checks it with. -/
  signed : Bool
  /-- Security version number. -/
  version : Nat
  deriving DecidableEq, Repr

/-- R36: the three images that the boot chain checks. -/
structure BootImages where
  /-- The image that the Apex processor runs. -/
  apex : Firmware
  /-- The per-die scalar image, which holds the save routines. -/
  scalar : Firmware
  /-- The image of the network engine. -/
  network : Firmware
  deriving DecidableEq, Repr

/-- R89: the operation that an incoming network packet asks for. -/
inductive NetRequest where
  /-- Write these bytes. -/
  | put (bytes : List Byte)
  /-- Read this many bytes. -/
  | get (len : Nat)
  /-- An atomic: AOP, 64 bits wide, OPND0 and OPND1. -/
  | atomic (aop : Nat) (wide : Bool) (opnd0 opnd1 : Word)
  deriving DecidableEq, Repr

/-- One constructor per row of the opcode table, in the table's order, but for the seven control words without
fields, which stand last. -/
inductive Instr where
  /-- ALWAYS_ON_POWER (R28). Always-on power is applied and the 64-bit nanosecond counter starts at 0. -/
  | alwaysOnPower
  /-- DEVICE_RESET (R39). Reset verifies the firmware images, trains the links and starts March C− BIST on every core. -/
  | deviceReset (images : BootImages) (modules : List Nat) (tiers : List Nat)
  /-- BIST_COMPLETE (R39). A core finishes BIST, repairing or fencing, and when every core of a die has finished BIST_SUMMARY.DONE is set. -/
  | bistComplete (core : Nat) (rows : List (Nat × Nat × Nat))
  /-- FLIT_CRC_FAIL (R12). A Lattice flit fails its CRC and is replayed from the sender's replay buffer. -/
  | flitCrcFail
  /-- MODULE_FAIL (R14). A UCIe module fails at run time, its flits are resent on the other modules, and DEGRADED may be set. -/
  | moduleFail (link : Nat)
  /-- HOST_LINK_FAIL (R62). The CXL link fails, the host agent poisons every line it holds, and in-flight host accesses are applied whole or not at all. -/
  | hostLinkFail
  /-- NETWORK_RESET (R26). A network reset applies NET_MODE.PORTS to the port mode. -/
  | networkReset
  /-- ECC_UE (R272). An uncorrectable error in a core array or home-slice line faults the context with ECC_UE. -/
  | eccUe (group : Nat) (addr : Word) (array : Nat) (bank : Nat) (row : Nat)
  /-- QUEUE_ECC (R75). An uncorrectable error in a ready-queue SRAM entry halts the partition. -/
  | queueEcc (part : Nat) (cls : Nat) (entry : Nat)
  /-- REGISTER_WRITE (R435). A host write to a register with no row of its own stores its RW bits, clears W1C bits, or is ignored by state or function rules. -/
  | registerWrite (fn : Nat) (off : Nat) (len : Nat) (value : Word)
  /-- RC_FIELD_READ (R435). A host read that returns a whole RC field (FLIT_ERR, MIG_STATS) returns it and clears it. -/
  | rcFieldRead (fn : Nat) (off : Nat) (len : Nat)
  /-- NS_STEP (R29). A write of NS_STEP steps every die's counter forward, or adds a negative step to the outstanding slew. -/
  | nsStep (fn : Nat) (delta : Word)
  /-- CREATE (R44). PART_CMD CREATE takes a FREE partition to CONFIG once BIST is done on every die. -/
  | createCmd (fn : Nat) (part : Nat)
  /-- START (R44). PART_CMD START checks root, cores, links, RESV and NETID, and takes the partition to RUN or refuses. -/
  | startCmd (fn : Nat) (part : Nat)
  /-- HALT (R44). PART_CMD HALT raises the partition's halt line with cause HOST_HALT. -/
  | haltCmd (fn : Nat) (part : Nat)
  /-- DESTROY (R44). PART_CMD DESTROY kills every team, reclaims resources, clears the page and returns the partition to FREE. -/
  | destroyCmd (fn : Nat) (part : Nat)
  /-- WINDOW_WRITE (R46). A host BAR4 write is translated through the partition's tables and applied at the home slice as aligned 8-byte writes. -/
  | windowWrite (fn : Nat) (off : Nat) (bytes : List Byte)
  /-- WINDOW_READ (R46). A host BAR4 read is translated and returns bytes as they stand at the home slice, or 0xFF with WIN_FAULT. -/
  | windowRead (fn : Nat) (off : Nat) (len : Nat)
  /-- APERTURE_WRITE (R49). An aligned 8-byte host write of n to an aperture word subtracts n from the mapped counter as one device-scope atomic. -/
  | apertureWrite (fn : Nat) (off : Nat) (n : Word)
  /-- APERTURE_READ (R49). An aligned 8-byte aperture read returns the mapped counter's value, or all ones with CAP_UNMAPPED or CAP_FAULT. -/
  | apertureRead (fn : Nat) (off : Nat)
  /-- APERTURE_BAD_ACCESS (R49). An aperture access that is not an aligned 8-byte access sets CAP_SIZE and is dropped or returns 0xFF. -/
  | apertureBadAccess (fn : Nat) (off : Nat) (len : Nat) (write : Bool)
  /-- WAKE_WRITE (R55). A host write to the wake window decrements a wake word and wakes the parked SCALL group when it reaches zero. -/
  | wakeWrite (fn : Nat) (off : Nat) (n : Word)
  /-- COUNTER_DECREMENT (R70). A decrement is performed at the counter's home slice, which fires, poisons or only updates a task record counter. -/
  | counterDecrement (part : Nat) (i : Nat)
  /-- DISPATCH_UNIT (R77). A die's dispatcher examines the classes and places the head unit on a fitting core or cluster, allotting its resources. -/
  | dispatchUnit (part : Nat) (die : Nat)
  /-- NET_ENQUEUE (R77). A NET record at the head of its class moves to the network engine's queue when it has room. -/
  | netEnqueue (part : Nat) (cls : Nat)
  /-- RANGE_SPLIT (R82). With an idle core and empty queues, the dispatcher splits the SPLIT interval with most grains left into a new unit. -/
  | rangeSplit (part : Nat) (core : Nat)
  /-- RESIDENCE_MARK (R108). A team crosses 2 ms of residence, becomes a possible victim and the dispatcher re-examines the classes. -/
  | residenceMark (team : Nat)
  /-- PREEMPT (R279). The dispatcher pre-empts chosen victims, stopping their groups, aborting transactions and regions and stopping their engines. -/
  | preempt (part : Nat) (die : Nat) (cls : Nat)
  /-- SAVE_COMPLETE (R279). Once a victim's save stores are acknowledged, its resources free and it joins its class's re-admit list. -/
  | saveComplete (team : Nat)
  /-- RESTORE (R279). A re-admitted team's restore routine reloads its context and resumes its engine commands and groups. -/
  | restore (part : Nat) (die : Nat)
  /-- LANE_BLOCK_START (R123). An idle lane stream starts the oldest lane-queue entry, setting lane PC, arguments, CUR and lane FMT. -/
  | laneBlockStart (group : Nat)
  /-- LOAD_COMPLETE (R137). A load or returning atomic writes its value in every lane and its GL or SP count falls. -/
  | loadComplete (group : Nat) (counter : Nat)
  /-- STORE_ACK (R137). A store is acknowledged at its point of coherence, or sent on the link, and its ST count falls. -/
  | storeAck (group : Nat)
  /-- WALK_COMPLETE (R163). A page walk finishes, setting A and D bits, and the waiting instruction may issue or fault. -/
  | walkComplete (group : Nat) (control : Bool)
  /-- LOGICAL_TICK (R161). Every 1,024 cycles a core's logical clock advances, letting L1 and TLB leases lapse. -/
  | logicalTick (core : Nat)
  /-- MIGRATION_START (R20). An access to a migrate page marks its 64 KiB unit busy, claims a frame and removes its translations. -/
  | migrationStart (part : Nat) (va : Word)
  /-- MIGRATION_COMPLETE (R20). After TLB acknowledgement and copying, the engine writes the new PTEs and releases the waiting accesses. -/
  | migrationComplete (i : Nat)
  /-- ENGINE_COMPLETE (R346). An engine command completes and arrives at its barrier with the bytes it wrote. -/
  | engineComplete (core : Nat) (matrix : Bool) (id : Nat)
  /-- GROUP_RETIRE (R117). A group that executed END retires once its lane work is done and its counters are zero. -/
  | groupRetire (group : Nat)
  /-- TEAM_RETIRE (R118). When every group has retired and barrier engine references drained, the team retires, frees resources and writes its team record. -/
  | teamRetire (team : Nat)
  /-- RECORD_COMPLETE (R79). A launch whose units have all retired writes STATE DONE and issues its successor decrements. -/
  | recordComplete (part : Nat) (id : Nat)
  /-- BATCH_CLOSE (R85). A spawn batch closes after 512 cycles or 256 entries and its merged KERNEL record is pushed to its class queue. -/
  | batchClose (part : Nat) (slot : Nat)
  /-- NET_OPERATION (R89). The network engine performs a NET_PUT, NET_GET or NET_ATOMIC record by sending its packets. -/
  | netOperation (part : Nat)
  /-- NET_ACK (R89). A packet acknowledgement or response arrives, and the last one completes the operation locally. -/
  | netAck (part : Nat) (id : Nat) (pkt : Nat) (ok : Bool) (data : List Byte)
  /-- NET_ACK_TIMEOUT (R89). A packet not acknowledged within 16 ms halts the sending partition with NET_FAIL. -/
  | netAckTimeout (part : Nat) (id : Nat)
  /-- NET_INCOMING (R86). An incoming operation is delivered to the RUN partition matching its job and process index, or refused with a NACK. -/
  | netIncoming (job : Nat) (epid : Nat) (peer : Nat) (raddr : Word) (req : NetRequest)
  /-- NET_REMOTE_DECREMENT (R90). An incoming remote decrement is applied as an aperture write of DEC to the named aperture word. -/
  | netRemoteDecrement (job : Nat) (epid : Nat) (peer : Nat) (word : Nat) (dec : Nat)
  /-- CQ_CONS_READ (R54). The consumer-word read of a SCALL completes, and the call record is posted or the ring is found full or the read fails. -/
  | cqConsRead (group : Nat) (ok : Bool)
  /-- CQ_REREAD (R54). Every 1 µs while the ring is full the I/O die rereads the consumer word. -/
  | cqReread (part : Nat) (ok : Bool)
  /-- WAITM_WAKE (R110). A write to a watched line or a restoration wakes a WAITM group, which rereads the word and parks again or resumes. -/
  | waitmWake (group : Nat)
  /-- WAITM_RECHECK (R110). Every 4 µs of parking a WAITM group rereads its word. -/
  | waitmRecheck (group : Nat)
  /-- TX_WATCHDOG (R239). TXW reaches 65,536 and every lane of TXA aborts with TIMEOUT. -/
  | txWatchdog (group : Nat)
  /-- SERIAL_TOKEN_GRANT (R244). The partition's serial token is granted in FIFO order once locking commits have unlocked, opening the serial transaction. -/
  | serialTokenGrant (part : Nat)
  /-- REGION_TRIP (R210). A monitor crossing by a region's MMA trips the region, which aborts or takes its top-rung action and updates Locus. -/
  | regionTrip (team : Nat)
  /-- REGION_RESTART (R211). After the abort's drains, the team moves to the head of its queue and resumes at the checkpoint one rung up. -/
  | regionRestart (team : Nat)
  /-- SHADOW_FULL (R220). A region that cannot get a version or shadow line aborts without a trip and restarts non-speculatively at the top rung. -/
  | shadowFull (team : Nat)
  /-- REGION_COMMIT (R217). Once a closed region's work has drained, the commit machine prepares and publishes its writes at one timestamp. -/
  | regionCommit (team : Nat)
  /-- ENGINE_STOP (R274). Within its skid bound each group or engine stops at a boundary and writes its stop record. -/
  | engineStop (unit : StopUnit)
  /-- PARTITION_HALTED (R274). Once every stop record is written or dropped, the partition enters HALTED. -/
  | partitionHalted (part : Nat)
  /-- DUMP_WRITE (R278). The dump header and records are written to DUMP_BASE within DUMP_LEN, truncating or stopping on a fault. -/
  | dumpWrite (part : Nat)
  /-- STOP (R286). DBG_CMD STOP freezes the groups in its scope. -/
  | dbgStop (fn : Nat) (part : Nat) (stream : Nat) (scope : Nat) (gid : Nat)
  /-- RESUME (R286). DBG_CMD RESUME restarts every stopped group in its scope in one cycle. -/
  | dbgResume (fn : Nat) (part : Nat) (stream : Nat) (scope : Nat) (gid : Nat)
  /-- STEP (R286). DBG_CMD STEP issues one instruction of the named stream in a stopped group. -/
  | dbgStep (fn : Nat) (part : Nat) (stream : Nat) (scope : Nat) (gid : Nat)
  /-- STEP_END (R286). The stepped instruction's acceptance, wait end, trap or fault ends the step and writes a KIND 4 record. -/
  | dbgStepEnd (group : Nat)
  /-- KILL (R282). DBG_CMD KILL stops a team, cancels its commands and discards its transactions and regions. -/
  | dbgKill (fn : Nat) (part : Nat) (stream : Nat) (scope : Nat) (gid : Nat)
  /-- KILL_COMPLETE (R282). Once the killed team's counters drain, its resources free and its record is written with KILLED. -/
  | dbgKillComplete (team : Nat)
  /-- SNAP (R287). DBG_CMD SNAP triggers a snapshot of every group and busy engine. -/
  | dbgSnap (fn : Nat) (part : Nat) (stream : Nat) (scope : Nat) (gid : Nat)
  /-- SNAPSHOT_LATCH (R287). At the first nanosecond value 64 ns after the trigger, snapshot registers latch and are dumped. -/
  | snapshotLatch (part : Nat)
  /-- TRACE_SAMPLE (R288). Every SAMPLE × 1,024 cycles each group writes a sample event to its die's trace stream. -/
  | traceSample (group : Nat) (control : Bool)
  /-- PORT_GATE (R283). A port whose groups are all parked or absent for 1,024 cycles is clock-gated. -/
  | portGate (core : Nat) (port : Nat)
  /-- BOOST_BOUNDARY (R31). At each 10 µs boundary clusters claim boost slots, the arbiter grants them, SLOTS may change and permits are charged. -/
  | boostBoundary (die : Nat) (slots : Nat)
  /-- PERMIT_ACCRUE (R32). Each complete 40 µs a cluster spends at nominal adds one permit. -/
  | permitAccrue (cluster : Nat)
  /-- GET_VERSION (R38). The SPDM responder answers GET_VERSION over DOE. -/
  | getVersion
  /-- GET_CAPABILITIES (R38). The SPDM responder answers GET_CAPABILITIES. -/
  | getCapabilities
  /-- NEGOTIATE_ALGORITHMS (R38). The SPDM responder answers NEGOTIATE_ALGORITHMS. -/
  | negotiateAlgorithms
  /-- GET_DIGESTS (R38). The SPDM responder returns the certificate chain digests. -/
  | getDigests
  /-- GET_CERTIFICATE (R38). The SPDM responder returns the Amundef root, identity and alias certificate chain. -/
  | getCertificate (offset : Nat) (len : Nat)
  /-- CHALLENGE (R38). The SPDM responder signs a challenge with the alias key. -/
  | challenge (nonce : List Byte)
  /-- GET_MEASUREMENTS (R38). The SPDM responder returns the four SHA-384 measurement blocks. -/
  | getMeasurements (index : Nat) (sign : Bool) (nonce : List Byte)
  /-- KALU_ADD (R320). kd ← ka + kb modulo 2^64. -/
  | kaluAdd (d : BitVec 6) (a : BitVec 6) (b : BitVec 6)
  /-- KALU_SUB (R320). kd ← ka − kb modulo 2^64. -/
  | kaluSub (d : BitVec 6) (a : BitVec 6) (b : BitVec 6)
  /-- KALU_MUL (R320). kd ← low 64 bits of ka × kb. -/
  | kaluMul (d : BitVec 6) (a : BitVec 6) (b : BitVec 6)
  /-- KALU_MULH (R320). kd ← signed high 64 bits of ka × kb. -/
  | kaluMulh (d : BitVec 6) (a : BitVec 6) (b : BitVec 6)
  /-- KALU_MULHU (R320). kd ← unsigned high 64 bits of ka × kb. -/
  | kaluMulhu (d : BitVec 6) (a : BitVec 6) (b : BitVec 6)
  /-- KALU_AND (R320). kd ← ka AND kb. -/
  | kaluAnd (d : BitVec 6) (a : BitVec 6) (b : BitVec 6)
  /-- KALU_OR (R320). kd ← ka OR kb. -/
  | kaluOr (d : BitVec 6) (a : BitVec 6) (b : BitVec 6)
  /-- KALU_XOR (R320). kd ← ka XOR kb. -/
  | kaluXor (d : BitVec 6) (a : BitVec 6) (b : BitVec 6)
  /-- KALU_ANDN (R320). kd ← ka AND NOT kb. -/
  | kaluAndn (d : BitVec 6) (a : BitVec 6) (b : BitVec 6)
  /-- KALU_SHL (R320). kd ← ka shifted left by kb[5:0]. -/
  | kaluShl (d : BitVec 6) (a : BitVec 6) (b : BitVec 6)
  /-- KALU_SHR (R320). kd ← ka shifted right logically by kb[5:0]. -/
  | kaluShr (d : BitVec 6) (a : BitVec 6) (b : BitVec 6)
  /-- KALU_SRA (R320). kd ← ka shifted right arithmetically by kb[5:0]. -/
  | kaluSra (d : BitVec 6) (a : BitVec 6) (b : BitVec 6)
  /-- KALU_MIN (R320). kd ← signed minimum of ka and kb. -/
  | kaluMin (d : BitVec 6) (a : BitVec 6) (b : BitVec 6)
  /-- KALU_MAX (R320). kd ← signed maximum of ka and kb. -/
  | kaluMax (d : BitVec 6) (a : BitVec 6) (b : BitVec 6)
  /-- KALU_MINU (R320). kd ← unsigned minimum of ka and kb. -/
  | kaluMinu (d : BitVec 6) (a : BitVec 6) (b : BitVec 6)
  /-- KALU_MAXU (R320). kd ← unsigned maximum of ka and kb. -/
  | kaluMaxu (d : BitVec 6) (a : BitVec 6) (b : BitVec 6)
  /-- KALU_CLZ (R320). kd ← count of leading zero bits of ka. -/
  | kaluClz (d : BitVec 6) (a : BitVec 6)
  /-- KALU_POPC (R320). kd ← count of set bits of ka. -/
  | kaluPopc (d : BitVec 6) (a : BitVec 6)
  /-- ADDI (R321). kd ← ka + sign-extended imm14. -/
  | addi (d : BitVec 6) (a : BitVec 6) (i : BitVec 14)
  /-- ANDI (R321). kd ← ka AND zero-extended imm14. -/
  | andi (d : BitVec 6) (a : BitVec 6) (i : BitVec 14)
  /-- ORI (R321). kd ← ka OR zero-extended imm14. -/
  | ori (d : BitVec 6) (a : BitVec 6) (i : BitVec 14)
  /-- XORI (R321). kd ← ka XOR zero-extended imm14. -/
  | xori (d : BitVec 6) (a : BitVec 6) (i : BitVec 14)
  /-- SHLI (R321). kd ← ka shifted left by an immediate amount. -/
  | shli (d : BitVec 6) (a : BitVec 6) (n : BitVec 6)
  /-- SHRI (R321). kd ← ka shifted right logically by an immediate amount. -/
  | shri (d : BitVec 6) (a : BitVec 6) (n : BitVec 6)
  /-- SRAI (R321). kd ← ka shifted right arithmetically by an immediate amount. -/
  | srai (d : BitVec 6) (a : BitVec 6) (n : BitVec 6)
  /-- LI (R322). kd ← sign-extended imm20. -/
  | li (d : BitVec 6) (i : BitVec 20)
  /-- LIS (R322). kd ← (kd << 20) OR imm20. -/
  | lis (d : BitVec 6) (i : BitVec 20)
  /-- CMP (R323). c[cp] ← result of comparing ka with kb under the condition. -/
  | cmp (c : BitVec 3) (p : BitVec 3) (a : BitVec 6) (b : BitVec 6)
  /-- CMPI (R323). c[cp] ← result of comparing ka with sign-extended imm14 under the condition. -/
  | cmpi (c : BitVec 3) (p : BitVec 3) (a : BitVec 6) (i : BitVec 14)
  /-- B (R325). Branches unconditionally by a word offset. -/
  | branch (o : BitVec 19)
  /-- B_T (R325). Branches when predicate cp is set. -/
  | branchT (p : BitVec 3) (o : BitVec 19)
  /-- B_F (R325). Branches when predicate cp is clear. -/
  | branchF (p : BitVec 3) (o : BitVec 19)
  /-- CALL (R325). Sets k62 to the return address and branches unconditionally. -/
  | call (o : BitVec 19)
  /-- CALL_T (R325). Calls when predicate cp is set. -/
  | callT (p : BitVec 3) (o : BitVec 19)
  /-- CALL_F (R325). Calls when predicate cp is clear. -/
  | callF (p : BitVec 3) (o : BitVec 19)
  /-- JR (R326). Jumps to the address in ka. -/
  | jr (a : BitVec 6)
  /-- JR_L (R326). Jumps to the address in ka and sets k62 to the return address. -/
  | jrL (a : BitVec 6)
  /-- LOOP (R327). Decrements kd and branches while it is non-zero. -/
  | loop (d : BitVec 6) (o : BitVec 14)
  /-- PAND (R324). cd ← ca AND cb. -/
  | pand (d : BitVec 3) (a : BitVec 3) (b : BitVec 3)
  /-- POR (R324). cd ← ca OR cb. -/
  | por (d : BitVec 3) (a : BitVec 3) (b : BitVec 3)
  /-- PNOT (R324). cd ← NOT ca. -/
  | pnot (d : BitVec 3) (a : BitVec 3)
  /-- SEL (R324). kd ← ka if predicate set, else kb. -/
  | sel (d : BitVec 6) (a : BitVec 6) (b : BitVec 6) (p : BitVec 3)
  /-- LDK (R330). Loads 1 to 8 bytes into kd, zero- or sign-extended. -/
  | ldk (d : BitVec 6) (a : BitVec 6) (z : BitVec 2) (x : BitVec 1) (o : BitVec 10)
  /-- STK (R330). Stores the low bytes of kd. -/
  | stk (d : BitVec 6) (a : BitVec 6) (z : BitVec 2) (o : BitVec 10)
  /-- AMOK (R331). Performs an atomic operation at ka with operand kd and returns the old value to kd. -/
  | amok (d : BitVec 6) (a : BitVec 6) (z : BitVec 1) (s : BitVec 2) (p : BitVec 4) (q : BitVec 1) (e : BitVec 1)
  /-- CASK (R332). Compares memory at ka with kd and stores kn on a match, returning the old value to kd. -/
  | cask (d : BitVec 6) (a : BitVec 6) (z : BitVec 2) (s : BitVec 2) (n : BitVec 6) (q : BitVec 1) (e : BitVec 1)
  /-- WAITM (R333). Parks the control stream until the word differs from kd. -/
  | waitm (d : BitVec 6) (a : BitVec 6) (z : BitVec 1) (o : BitVec 10)
  /-- LRUN (R334). Appends a lane-queue entry with start word, argument snapshot and control FMT copy. -/
  | lrun (a : BitVec 6) (n : BitVec 3) (o : BitVec 17)
  /-- CPOP (R335). Removes the oldest condition-queue entry into kd, waiting or faulting CQ_STARVE if empty. -/
  | cpop (d : BitVec 6)
  /-- SETFMT (R337). Writes the control FMT from ka[11:0]. -/
  | setfmt (a : BitVec 6)
  /-- GETFMT (R337). kd ← the control FMT. -/
  | getfmt (d : BitVec 6)
  /-- SREAD (R338). kd ← the numbered special register. -/
  | sread (d : BitVec 6) (r : BitVec 8)
  /-- SWRITE (R338). Writes TRAPINFO1 from ka. -/
  | swrite (a : BitVec 6) (r : BitVec 8)
  /-- CWAIT (R339). Waits until GL, SP or ST is at or below ka. -/
  | cwait (a : BitVec 6) (c : BitVec 2)
  /-- BINIT (R350). Initialises a barrier with n expected arrivals. -/
  | binit (a : BitVec 6) (b : BitVec 4)
  /-- BEXPECT (R350). Adds n bytes owed to a barrier. -/
  | bexpect (a : BitVec 6) (b : BitVec 4)
  /-- BARRIVE (R350). Arrives at a barrier, possibly flipping its phase. -/
  | barrive (b : BitVec 4)
  /-- BWAIT (R350). Waits while the barrier phase equals ka[0] and sets a predicate. -/
  | bwait (a : BitVec 6) (b : BitVec 4) (p : BitVec 3)
  /-- BTEST (R350). Sets a predicate from the barrier phase without waiting. -/
  | btest (a : BitVec 6) (b : BitVec 4) (p : BitVec 3)
  /-- BINV (R350). Invalidates a barrier and wakes its waiters false. -/
  | binv (b : BitVec 4)
  /-- TCOPY (R353). Accepts a copy-engine command that copies and converts rows per its descriptor. -/
  | tcopy (a : BitVec 6) (b : BitVec 4) (q : BitVec 1) (e : BitVec 1) (s : BitVec 2) (n : BitVec 1)
  /-- TCOPY_C (R354). Accepts one slice of a collective copy built from several groups' slices. -/
  | tcopyC (a : BitVec 6) (k : BitVec 6) (b : BitVec 4) (q : BitVec 1) (e : BitVec 1) (s : BitVec 2) (n : BitVec 1)
  /-- RQT (R355). Accepts a copy-engine command that transposes and requantises a block-scaled tile. -/
  | rqt (a : BitVec 6) (b : BitVec 4) (q : BitVec 1) (e : BitVec 1) (s : BitVec 2) (n : BitVec 1)
  /-- MMA (R359). Accepts a matrix-engine command that adds A × Bᵀ into an accumulator slot. -/
  | mma (a : BitVec 6) (b : BitVec 4) (q : BitVec 1) (e : BitVec 1) (s : BitVec 2) (n : BitVec 1) (z : BitVec 5)
  /-- TZERO (R361). Zeroes a slot, resets its status word and sets its written bit. -/
  | tzero (z : BitVec 5)
  /-- TLOAD (R361). Accepts a command loading a slot from memory. -/
  | tload (a : BitVec 6) (b : BitVec 4) (q : BitVec 1) (s : BitVec 2) (n : BitVec 1) (z : BitVec 5)
  /-- TSTORE (R361). Accepts a command storing a slot to memory. -/
  | tstore (a : BitVec 6) (b : BitVec 4) (e : BitVec 1) (s : BitVec 2) (n : BitVec 1) (z : BitVec 5)
  /-- TSTAT (R361). Reads a slot's status word into ka after earlier commands, optionally clearing it. -/
  | tstat (d : BitVec 6) (c : BitVec 1) (z : BitVec 5)
  /-- TGATH (R356). Accepts a copy-engine command gathering indexed table rows. -/
  | tgath (a : BitVec 6) (b : BitVec 4) (q : BitVec 1) (e : BitVec 1) (s : BitVec 2) (n : BitVec 1)
  /-- PBEGIN (R362). Team-collectively opens a precision region with a checkpoint and a starting rung. -/
  | pbegin (a : BitVec 6)
  /-- PQUERY (R365). Writes a Locus entry, the open region's state or the last status word to ka. -/
  | pquery (d : BitVec 6) (b : BitVec 6) (f : BitVec 2)
  /-- TSPAWN (R366). Spawns one unit of a task type into an aggregator batch. -/
  | tspawn (a : BitVec 6) (b : BitVec 6) (c : BitVec 3) (t : BitVec 8)
  /-- TDEC (R367). Decrements a counter word by kb as one atomic. -/
  | tdec (a : BitVec 6) (b : BitVec 6)
  /-- RCLAIM (R368). Claims the next range chunk into ka and ka+1. -/
  | rclaim (a : BitVec 6)
  /-- TFIN (R369). Ends a launch early, recording FINISHED and FINCODE. -/
  | tfin (c : BitVec 8)
  /-- ASSERT (R340). Faults with ASSERT when the predicate has the failing value. -/
  | assert (a : BitVec 6) (n : BitVec 1) (p : BitVec 3)
  /-- SCALL (R341). Parks the group and posts a call record to the host call queue. -/
  | scall (d : BitVec 6) (a : BitVec 6) (c : BitVec 14)
  /-- BRK (R342). Raises a BRK trap, or stops the group when a debugger is attached. -/
  | brk (c : BitVec 20)
  /-- IADD (R374). Per-lane integer add, optionally saturating. -/
  | iadd (f : LaneFields)
  /-- ISUB (R374). Per-lane integer subtract, optionally saturating. -/
  | isub (f : LaneFields)
  /-- IMUL (R374). Per-lane integer multiply, low half. -/
  | imul (f : LaneFields)
  /-- IMULH (R374). Per-lane integer multiply, high half. -/
  | imulh (f : LaneFields)
  /-- IMAD (R374). Per-lane integer multiply-add, optionally saturating. -/
  | imad (f : LaneFields)
  /-- IMIN (R374). Per-lane integer minimum. -/
  | imin (f : LaneFields)
  /-- IMAX (R374). Per-lane integer maximum. -/
  | imax (f : LaneFields)
  /-- IABS (R374). Per-lane integer absolute value. -/
  | iabs (f : LaneFields)
  /-- LANE_AND (R374). Per-lane bitwise AND. -/
  | laneAnd (f : LaneFields)
  /-- LANE_OR (R374). Per-lane bitwise OR. -/
  | laneOr (f : LaneFields)
  /-- LANE_XOR (R374). Per-lane bitwise XOR. -/
  | laneXor (f : LaneFields)
  /-- NOT (R374). Per-lane bitwise NOT. -/
  | laneNot (f : LaneFields)
  /-- LANE_SHL (R374). Per-lane shift left. -/
  | laneShl (f : LaneFields)
  /-- LANE_SHR (R374). Per-lane logical shift right. -/
  | laneShr (f : LaneFields)
  /-- LANE_SRA (R374). Per-lane arithmetic shift right. -/
  | laneSra (f : LaneFields)
  /-- BFE (R375). Per-lane bit-field extract. -/
  | bfe (f : LaneFields)
  /-- BFI (R375). Per-lane bit-field insert. -/
  | bfi (f : LaneFields)
  /-- LANE_CLZ (R374). Per-lane count of leading zeros. -/
  | laneClz (f : LaneFields)
  /-- LANE_POPC (R374). Per-lane count of set bits. -/
  | lanePopc (f : LaneFields)
  /-- BREV (R374). Per-lane bit reversal. -/
  | brev (f : LaneFields)
  /-- ISET (R374). Per-lane integer compare giving 1 or 0. -/
  | iset (f : LaneFields)
  /-- LANE_SEL (R374). Per-lane select of a or b by c, with the chosen tag. -/
  | laneSel (f : LaneFields)
  /-- MOV (R374). Per-lane move of 32, 64 or 128 bits with tag. -/
  | mov (f : LaneFields)
  /-- MOVI (R376). Per-lane move of imm32 into a register or the high half of a pair. -/
  | movi (f : LaneFields)
  /-- FADD (R377). Per-lane floating-point add with TagAdd. -/
  | fadd (f : LaneFields)
  /-- FSUB (R377). Per-lane floating-point subtract with TagAdd. -/
  | fsub (f : LaneFields)
  /-- FMUL (R377). Per-lane floating-point multiply with TagMul. -/
  | fmul (f : LaneFields)
  /-- FFMA (R377). Per-lane fused multiply-add. -/
  | ffma (f : LaneFields)
  /-- FMIN (R378). Per-lane floating-point minimum. -/
  | fmin (f : LaneFields)
  /-- FMAX (R378). Per-lane floating-point maximum. -/
  | fmax (f : LaneFields)
  /-- FRCP (R379). Per-lane correctly rounded reciprocal. -/
  | frcp (f : LaneFields)
  /-- FRSQ (R379). Per-lane correctly rounded reciprocal square root. -/
  | frsq (f : LaneFields)
  /-- FSQRT (R379). Per-lane correctly rounded square root. -/
  | fsqrt (f : LaneFields)
  /-- FEXP2 (R380). Per-lane FP32 2^x. -/
  | fexp2 (f : LaneFields)
  /-- FLOG2 (R380). Per-lane FP32 log2 x. -/
  | flog2 (f : LaneFields)
  /-- FTANH (R380). Per-lane FP32 tanh x. -/
  | ftanh (f : LaneFields)
  /-- FSIN (R380). Per-lane FP32 sin(πx). -/
  | fsin (f : LaneFields)
  /-- FCOS (R380). Per-lane FP32 cos(πx). -/
  | fcos (f : LaneFields)
  /-- FSET (R382). Per-lane floating-point compare giving 1 or 0 per element. -/
  | fset (f : LaneFields)
  /-- FCLASS (R383). Per-lane class mask of each element. -/
  | fclass (f : LaneFields)
  /-- FRND (R381). Per-lane rounding to an integral value. -/
  | frnd (f : LaneFields)
  /-- CVT (R385). Per-lane conversion between floating-point formats. -/
  | cvt (f : LaneFields)
  /-- CVTI (R386). Per-lane conversion between integer and floating-point. -/
  | cvti (f : LaneFields)
  /-- PACK (R387). Per-lane packing of two FP32 values into a 16-bit pair. -/
  | pack (f : LaneFields)
  /-- UNPK (R387). Per-lane widening of one element of a 16-bit pair to FP32. -/
  | unpk (f : LaneFields)
  /-- MXQ (R388). Quantises a 32-lane block to an MX or NP format with one scale. -/
  | mxq (f : LaneFields)
  /-- TAGQ (R389). Per-lane read of a value's tag. -/
  | tagq (f : LaneFields)
  /-- TAGG (R389). Per-lane test that a tag is at least b. -/
  | tagg (f : LaneFields)
  /-- TAGS (R390). Per-lane copy of a value with its tag set, trapping TAG_OP on improper tags. -/
  | tags (f : LaneFields)
  /-- TAGM (R389). Per-lane copy of a value with the lower of two tags. -/
  | tagm (f : LaneFields)
  /-- IF (R135). Pushes an IF entry and narrows CUR to lanes whose condition holds, optionally changing lane FMT. -/
  | laneIf (f : LaneFields)
  /-- ELSE (R135). Switches CUR to the lanes waiting in the top IF entry. -/
  | laneElse (f : LaneFields)
  /-- ENDIF (R135). Restores CUR and lane FMT from the top entry and pops it. -/
  | endif (f : LaneFields)
  /-- LANE_LOOP (R393). Pushes a LOOP entry recording the loop head. -/
  | laneLoop (f : LaneFields)
  /-- LANE_BRK (R135). Removes breaking lanes from CUR and from entries above the loop. -/
  | laneBrk (f : LaneFields)
  /-- CONT (R135). Holds continuing lanes in the loop entry until ENDL. -/
  | cont (f : LaneFields)
  /-- ENDL (R135). Ends a loop iteration, branching back or exiting the loop. -/
  | endl (f : LaneFields)
  /-- EXIT (R135). Removes the current lanes from LIVE for the rest of the task. -/
  | exit (f : LaneFields)
  /-- LEND (R393). Ends the lane block and idles the lane stream. -/
  | lend (f : LaneFields)
  /-- YIELD (R394). Appends a value or ballot entry to the condition queue. -/
  | yield (f : LaneFields)
  /-- LANE_NOP (R395). Lane no-operation. -/
  | laneNop (f : LaneFields)
  /-- MAND (R396). md ← ma AND mb. -/
  | mand (f : LaneFields)
  /-- MOR (R396). md ← ma OR mb. -/
  | mor (f : LaneFields)
  /-- MNOT (R396). md ← NOT ma. -/
  | mnot (f : LaneFields)
  /-- VOTE (R397). Forms a ballot mask, or an any or all result across contributing lanes. -/
  | vote (f : LaneFields)
  /-- SHFL (R398). Each lane reads another lane's register by index, up, down or xor. -/
  | shfl (f : LaneFields)
  /-- QSWP (R399). Each lane reads a register of a partner lane within its quad. -/
  | qswp (f : LaneFields)
  /-- QRED (R400). Reduces the four lanes of each quad. -/
  | qred (f : LaneFields)
  /-- GRED (R401). Reduces the contributing lanes in ascending order. -/
  | gred (f : LaneFields)
  /-- GSCAN (R401). Computes an inclusive or exclusive scan over contributing lanes. -/
  | gscan (f : LaneFields)
  /-- LD (R404). Per-lane load into a register with tag 63. -/
  | ld (f : LaneFields)
  /-- ST (R405). Per-lane store. -/
  | st (f : LaneFields)
  /-- LDT (R406). Per-lane load of a value and its sidecar tag byte. -/
  | ldt (f : LaneFields)
  /-- STT (R406). Per-lane store of a value and its tag byte. -/
  | stt (f : LaneFields)
  /-- ATOM (R407). Per-lane atomic operation, combining same-address adds. -/
  | atom (f : LaneFields)
  /-- CAS (R408). Per-lane compare-and-swap. -/
  | cas (f : LaneFields)
  /-- PREF (R409). Per-lane prefetch of a line into the L1. -/
  | pref (f : LaneFields)
  /-- XBEGIN (R230). Opens a lane transaction in each current lane, or deepens a flattened one. -/
  | xbegin (f : LaneFields)
  /-- XBEGIN_S (R244). Sets aside all but the lowest lane and requests the serial token. -/
  | xbeginS (f : LaneFields)
  /-- XEND (R240). Validates and commits each lane in ascending order and writes the committed mask. -/
  | xend (f : LaneFields)
  /-- XABORT (R413). Aborts the guarded lanes' transactions with cause EXPLICIT. -/
  | xabort (f : LaneFields)
  /-- XSTAT (R414). Writes each lane's transaction cause word. -/
  | xstat (f : LaneFields)
  /-- TLD (R415). Reads one strip of an accumulator slot into eight lane registers. -/
  | tld (f : LaneFields)
  /-- TST (R415). Writes eight lane registers into one strip of an accumulator slot. -/
  | tst (f : LaneFields)
  /-- HOST_LINK_RETRAIN (R62). The CXL/PCIe host link retrains and comes back up after a failure, ending the link-down state while poison marks survive. -/
  | hostLinkRetrain
  /-- HOST_SNOOP (R58). The host sends a CXL.cache snoop for a line held in the host agent's host-line cache, which gives up or downgrades the line. -/
  | hostSnoop (line : Nat) (keep : Bool)
  /-- LSYNC (R336). Waits until the lane queue is empty and the lane stream idle. -/
  | lsync
  /-- PEND (R363). Closes the open region and waits for its commit. -/
  | pend
  /-- PEND_A (R363). Closes the open region and continues while it becomes pending. -/
  | pendA
  /-- PABORT (R364). Trips the open region at its current rung. -/
  | pabort
  /-- TRET (R343). Ends the trap handler, restoring the trap slot and resuming at TRAPINFO1. -/
  | tret
  /-- NOP (R344). Control no-operation. -/
  | nop
  /-- END (R328). Stops the control stream so the group can retire. -/
  | ctlEnd
  deriving DecidableEq, Repr

end Sys2Proof
end

