-- ==== Sys2Proof/WellFormed.lean ====
section
/-! DEFINITION. Sys2Proof/WellFormed.lean: what R314 requires of a word beyond its opcode, as far as the word alone
shows it.  Checks that need the task type or the format register (a register beyond the type's file, R127; a reserved
rounding code left by an FMT change, R392) are made when the word issues.  Machine events have no word and are
always well-formed. -/

namespace Sys2Proof

/-! ## Lane words -/

/-- How a lane word uses one of its four operand fields. -/
inductive FieldUse where
  /-- The instruction does not read the field, which must be all zeros (R310). -/
  | unused
  /-- A v or o register that starts a run of `n` registers, with the base a multiple of `n` (R128, R131, R371). -/
  | reg (n : Nat)
  /-- Any operand, read at `n` registers' width; an a or l register, imm32 or a constant serves up to two (R371). -/
  | src (n : Nat)
  /-- A memory address: a v or o pair, an a register or an l register (R403). -/
  | addr
  deriving DecidableEq, Repr

/-- What a lane word does with imm32 (R311, R313). -/
inductive ImmUse where
  /-- Read only where a specifier names it; otherwise it must be 0. -/
  | operand
  /-- It must be 0, whatever the specifiers name. -/
  | zero
  /-- A fixed purpose, with its own check: no specifier may name it. -/
  | fixed (ok : Bool)
  deriving DecidableEq, Repr

/-- What a lane word does with bits [35:32] (R312). -/
inductive LowUse where
  /-- Rounding codes 0-4 and 7; `sat` says whether sat = 1 is accepted. -/
  | rounding (sat : Bool)
  /-- The four bits must be 0. -/
  | zero
  /-- ORD, any value. -/
  | ord
  deriving DecidableEq, Repr

/-- The requirements that one row of the map of R313 puts on a word. -/
structure LaneShape where
  /-- sub and type hold values the row gives. -/
  form : Bool
  /-- The destination field. -/
  d : FieldUse := .unused
  /-- The first source. -/
  a : FieldUse := .unused
  /-- The second source. -/
  b : FieldUse := .unused
  /-- The third source. -/
  c : FieldUse := .unused
  /-- imm32. -/
  imm : ImmUse := .operand
  /-- Whether the word may carry a guard. -/
  guarded : Bool := true
  /-- Bits [35:32]. -/
  low : LowUse := .rounding false
  deriving DecidableEq, Repr

/-- A v or o register whose number is a multiple of `n`. -/
def Operand.isBase (n : Nat) : Operand → Bool
  | .v k => k.toNat % n == 0
  | .o k => k.toNat % n == 0
  | _ => false

/-- The operand field is used as `u` allows. -/
def Operand.fits (x : Operand) : FieldUse → Bool
  | .unused => x == .v 0
  | .reg n => x.isBase n
  | .src n =>
    match x with
    | .v _ | .o _ => x.isBase n
    | _ => n ≤ 2
  | .addr =>
    match x with
    | .v _ | .o _ => x.isBase 2
    | .a _ | .l _ => true
    | _ => false

/-- Some specifier names imm32. -/
def LaneFields.namesImm (f : LaneFields) : Bool :=
  f.dst == .imm || f.a == .imm || f.b == .imm || f.c == .imm

/-- R314 for one word of shape `r`. -/
def LaneShape.ok (r : LaneShape) (f : LaneFields) : Bool :=
  r.form && f.dst.fits r.d && f.a.fits r.a && f.b.fits r.b && f.c.fits r.c &&
  (match r.imm with
   | .operand => f.namesImm || f.imm == 0
   | .zero => f.imm == 0
   | .fixed ok => !f.namesImm && ok) &&
  (r.guarded || f.guard == ⟨false, 0⟩) &&
  (match r.low with
   | .rounding s => !(f.rnd == 5 || f.rnd == 6) && (s || f.sat == 0)
   | .zero => f.rnd == 0 && f.sat == 0
   | .ord => true)

/-- Registers of a value of the width that type 0 (32 bits) or 1 (64 bits) selects. -/
def LaneFields.tyRegs (f : LaneFields) : Nat := if f.ty == 1 then 2 else 1

/-- Registers of a value of `2 ^ sub[2:0]` bytes (R403). -/
def LaneFields.memRegs (f : LaneFields) : Nat :=
  if f.sub.toNat % 8 == 4 then 4 else if f.sub.toNat % 8 == 3 then 2 else 1

/-- Registers of a value of format code `k` in a conversion (R384). -/
def codeRegs (k : BitVec 4) : Nat := if k == 1 then 2 else 1

/-- type is 0 or 1. -/
def LaneFields.ty01 (f : LaneFields) : Bool := f.ty.toNat ≤ 1

/-- R375: pos and width of BFE and BFI. -/
def LaneFields.bitFieldOk (f : LaneFields) : Bool :=
  let pos := (f.imm.extractLsb' 0 6).toNat
  let width := (f.imm.extractLsb' 8 7).toNat
  f.imm.extractLsb' 6 2 == 0 && f.imm.extractLsb' 15 17 == 0 && 1 ≤ width && pos + width ≤ 32 * f.tyRegs

/-- R313, R392: the reserved bits of an FMT change. -/
def LaneFields.fmtChangeOk (f : LaneFields) : Bool :=
  f.imm.extractLsb' 28 4 == 0 && f.imm.extractLsb' 12 4 == 0

/-- R415: slot and strip of TLD and TST. -/
def LaneFields.stripOk (f : LaneFields) : Bool :=
  f.imm.extractLsb' 5 3 == 0 && f.imm.extractLsb' 12 20 == 0

/-- R402: the type of a reduction suits its operation, and every operation takes 0 or 1. -/
def LaneFields.reduceOk (f : LaneFields) (scan : Bool) : Bool :=
  f.ty01 && (scan || f.sub.toNat < 8)

/-- The map of R313 (with R374-R376, R384-R389, R391, R396-R408, R411-R415): the shape of major opcode `op`, or
nothing where the opcode is unassigned. -/
def laneShape (op : Nat) (f : LaneFields) : Option LaneShape :=
  let n := f.tyRegs
  let z := f.sub == 0
  let t := f.ty01
  let t3 := f.ty.toNat ≤ 3
  let m := f.memRegs
  let w := f.sub.toNat % 8
  match op with
  -- integer: 0x01-0x18
  | 0x01 | 0x02 => some { form := z && t, d := .reg n, a := .src n, b := .src n, low := .rounding true }
  | 0x03 => some { form := z && t, d := .reg n, a := .src n, b := .src n }
  | 0x04 | 0x06 | 0x07 => some { form := f.sub.toNat ≤ 1 && t, d := .reg n, a := .src n, b := .src n }
  | 0x05 => some { form := z && t, d := .reg n, a := .src n, b := .src n, c := .src n, low := .rounding true }
  | 0x08 | 0x0C | 0x14 => some { form := z && t, d := .reg n, a := .src n }
  | 0x09 | 0x0A | 0x0B | 0x0D | 0x0E | 0x0F => some { form := z && t, d := .reg n, a := .src n, b := .src n }
  | 0x10 => some { form := f.sub.toNat ≤ 1 && t, d := .reg n, a := .src n, imm := .fixed f.bitFieldOk }
  | 0x11 => some { form := z && t, d := .reg n, a := .src n, b := .src n, imm := .fixed f.bitFieldOk }
  | 0x12 | 0x13 => some { form := z && t, d := .reg 1, a := .src n }
  | 0x15 => some { form := f.sub.toNat ≤ 7 && t, d := .reg 1, a := .src n, b := .src n }
  | 0x16 => some { form := z && t, d := .reg n, a := .src n, b := .src n, c := .src 1 }
  | 0x17 =>
    let k := if f.ty == 2 then 4 else n
    some { form := z && f.ty.toNat ≤ 2, d := .reg k, a := .src k }
  | 0x18 =>
    some { form := f.sub.toNat ≤ 1 && f.ty == 0, d := .reg (if f.sub == 1 then 2 else 1), imm := .fixed true }
  -- floating point: 0x20-0x30
  | 0x20 | 0x21 | 0x22 | 0x24 | 0x25 => some { form := z && t3, d := .reg n, a := .src n, b := .src n }
  | 0x23 => some { form := z && t3, d := .reg n, a := .src n, b := .src n, c := .src n }
  | 0x26 | 0x27 | 0x28 => some { form := z && t, d := .reg n, a := .src n }
  | 0x29 | 0x2A | 0x2B | 0x2C | 0x2D => some { form := z && f.ty == 0, d := .reg 1, a := .src 1 }
  | 0x2E => some { form := f.sub.toNat ≤ 7 && t3, d := .reg 1, a := .src n, b := .src n }
  | 0x2F => some { form := z && t3, d := .reg 1, a := .src n }
  | 0x30 => some { form := z && t3, d := .reg n, a := .src n }
  -- conversions and tags: 0x40-0x4B
  | 0x40 =>
    let fl := fun (k : BitVec 4) => k.toNat ≤ 8 || k == 0xE
    some { form := fl f.sub && fl f.ty && f.sub != f.ty, d := .reg (codeRegs f.ty), a := .src (codeRegs f.sub) }
  | 0x41 =>
    let fl := fun (k : BitVec 4) => k.toNat ≤ 8
    let int := fun (k : BitVec 4) => 0xA ≤ k.toNat && k.toNat ≤ 0xD
    some { form := fl f.sub && int f.ty || int f.sub && fl f.ty
           d := .reg (codeRegs f.ty), a := .src (codeRegs f.sub) }
  | 0x42 => some { form := z && (f.ty == 2 || f.ty == 3), d := .reg 1, a := .src 1, b := .src 1 }
  | 0x43 => some { form := f.sub.toNat ≤ 1 && (f.ty == 2 || f.ty == 3), d := .reg 1, a := .src 1 }
  | 0x44 => some { form := z && 4 ≤ f.ty.toNat && f.ty.toNat ≤ 9, d := .reg 2, a := .src 1 }
  | 0x48 => some { form := z && t3, d := .reg 1, a := .src n }
  | 0x49 => some { form := z && t3, d := .reg 1, a := .src n, b := .src 1 }
  | 0x4A => some { form := z && t3, d := .reg n, a := .src n, b := .src 1 }
  | 0x4B => some { form := z && t3, d := .reg n, a := .src n, b := .src n }
  -- lane control: 0x50-0x5A
  | 0x50 => some { form := f.sub.toNat ≤ 1 && f.ty == 0, a := .src 1, imm := .fixed f.fmtChangeOk }
  | 0x51 => some { form := z && f.ty == 0, imm := .fixed f.fmtChangeOk, guarded := false }
  | 0x52 | 0x53 | 0x56 | 0x57 | 0x58 => some { form := z && f.ty == 0, guarded := false }
  | 0x54 | 0x55 => some { form := f.sub.toNat ≤ 1 && f.ty == 0, a := .src 1, imm := .zero }
  | 0x59 => some { form := f.sub == 0 && t || f.sub == 1 && f.ty == 0, a := .src n, imm := .zero }
  | 0x5A => some { form := z && f.ty == 0, low := .zero }
  -- masks, cross-lane and quad: 0x60-0x68
  | 0x60 | 0x61 =>
    some { form := z && f.ty == 0, guarded := false
           imm := .fixed (f.imm &&& 0xFFFFF888#32 == 0) }
  | 0x62 => some { form := z && f.ty == 0, guarded := false, imm := .fixed (f.imm &&& 0xFFFFFF88#32 == 0) }
  | 0x63 =>
    if f.sub == 0 then some { form := f.ty == 0, a := .src 1, imm := .fixed (f.imm &&& 0xFFFFFFF8#32 == 0) }
    else some { form := f.sub.toNat ≤ 2 && f.ty == 0, d := .reg 1, a := .src 1, imm := .zero }
  | 0x64 => some { form := f.sub.toNat ≤ 3 && t, d := .reg n, a := .src n, b := .src 1 }
  | 0x65 => some { form := f.sub.toNat ≤ 2 && t, d := .reg n, a := .src n }
  | 0x66 | 0x67 => some { form := f.reduceOk false, d := .reg n, a := .src n }
  | 0x68 => some { form := f.reduceOk true, d := .reg n, a := .src n }
  -- memory and atomics: 0x70-0x76
  | 0x70 =>
    some { form := w ≤ 4 && (f.sub.toNat < 8 || w ≤ 1) && f.ty == 0
           d := .reg m, a := .addr, imm := .fixed true, low := .zero }
  | 0x71 => some { form := f.sub.toNat ≤ 4 && f.ty == 0, a := .addr, b := .src m, imm := .fixed true, low := .zero }
  | 0x72 =>
    some { form := f.sub.toNat ≤ 4 && f.ty == 0, d := .reg m, a := .addr, b := .src 2, imm := .fixed true, low := .zero }
  | 0x73 =>
    some { form := f.sub.toNat ≤ 4 && f.ty == 0, a := .addr, b := .src 2, c := .src m, imm := .fixed true, low := .zero }
  | 0x74 =>
    some { form := (w == 2 || w == 3) && f.ty.toNat ≤ 9
           d := if f.sub.toNat < 8 then .reg m else .unused
           a := .addr, b := .src m, imm := .fixed true, low := .ord }
  | 0x75 =>
    some { form := 2 ≤ f.sub.toNat && f.sub.toNat ≤ 4 && f.ty == 0
           d := .reg m, a := .addr, b := .src m, c := .src m, imm := .fixed true, low := .ord }
  | 0x76 => some { form := z && f.ty == 0, a := .addr, imm := .fixed true, low := .zero }
  -- transactions and tile fragments: 0x80-0x89
  | 0x80 =>
    some { form := f.sub.toNat ≤ 1 && f.ty == 0, imm := .fixed (f.imm.extractLsb' 17 15 == 0)
           guarded := false, low := .zero }
  | 0x81 =>
    some { form := z && f.ty == 0, imm := .fixed (f.imm &&& 0xFFFFFFF8#32 == 0), guarded := false, low := .zero }
  | 0x82 => some { form := z && f.ty == 0, imm := .fixed (f.imm.extractLsb' 8 24 == 0), low := .zero }
  | 0x83 => some { form := z && f.ty == 0, d := .reg 1, low := .zero }
  | 0x88 => some { form := z && f.ty == 0, d := .reg 8, imm := .fixed f.stripOk, low := .zero }
  | 0x89 => some { form := z && f.ty == 0, a := .reg 8, imm := .fixed f.stripOk, low := .zero }
  | _ => none

/-- A lane word of major opcode `op` meets R314. -/
def laneOk (op : Nat) (f : LaneFields) : Bool :=
  match laneShape op f with
  | some r => r.ok f
  | none => false

/-! ## Control words -/

/-- R307: the shared checks of the engine commands' flags: scope 0 without ACQ and REL, barrier 0 under NB. -/
def engineFlagsOk (acq rel nb : BitVec 1) (scope : BitVec 2) (bar : BitVec 4) : Bool :=
  (acq == 1 || rel == 1 || scope == 0) && (nb == 0 || bar == 0)

/-- R317: the numbers SREAD accepts. -/
def readableSpecial (r : BitVec 8) : Bool :=
  r.toNat ≤ 0x0D || (0x10 ≤ r.toNat && r.toNat ≤ 0x12) || (0x14 ≤ r.toNat && r.toNat ≤ 0x18) ||
  (0x1C ≤ r.toNat && r.toNat ≤ 0x1F)

/-- R314: the instruction has a legal word.  Every constructor is named, so a new one cannot slip past. -/
def Instr.wf : Instr → Bool
  | .alwaysOnPower .. => true
  | .deviceReset .. => true
  | .bistComplete .. => true
  | .flitCrcFail .. => true
  | .moduleFail .. => true
  | .hostLinkFail .. => true
  | .networkReset .. => true
  | .eccUe .. => true
  | .queueEcc .. => true
  | .registerWrite .. => true
  | .rcFieldRead .. => true
  | .nsStep .. => true
  | .createCmd .. => true
  | .startCmd .. => true
  | .haltCmd .. => true
  | .destroyCmd .. => true
  | .windowWrite .. => true
  | .windowRead .. => true
  | .apertureWrite .. => true
  | .apertureRead .. => true
  | .apertureBadAccess .. => true
  | .wakeWrite .. => true
  | .counterDecrement .. => true
  | .dispatchUnit .. => true
  | .netEnqueue .. => true
  | .rangeSplit .. => true
  | .residenceMark .. => true
  | .preempt .. => true
  | .saveComplete .. => true
  | .restore .. => true
  | .laneBlockStart .. => true
  | .loadComplete .. => true
  | .storeAck .. => true
  | .walkComplete .. => true
  | .logicalTick .. => true
  | .migrationStart .. => true
  | .migrationComplete .. => true
  | .engineComplete .. => true
  | .groupRetire .. => true
  | .teamRetire .. => true
  | .recordComplete .. => true
  | .batchClose .. => true
  | .netOperation .. => true
  | .netAck .. => true
  | .netAckTimeout .. => true
  | .netIncoming .. => true
  | .netRemoteDecrement .. => true
  | .cqConsRead .. => true
  | .cqReread .. => true
  | .waitmWake .. => true
  | .waitmRecheck .. => true
  | .txWatchdog .. => true
  | .serialTokenGrant .. => true
  | .regionTrip .. => true
  | .regionRestart .. => true
  | .shadowFull .. => true
  | .regionCommit .. => true
  | .engineStop .. => true
  | .partitionHalted .. => true
  | .dumpWrite .. => true
  | .dbgStop .. => true
  | .dbgResume .. => true
  | .dbgStep .. => true
  | .dbgStepEnd .. => true
  | .dbgKill .. => true
  | .dbgKillComplete .. => true
  | .dbgSnap .. => true
  | .snapshotLatch .. => true
  | .traceSample .. => true
  | .portGate .. => true
  | .boostBoundary .. => true
  | .permitAccrue .. => true
  | .getVersion .. => true
  | .getCapabilities .. => true
  | .negotiateAlgorithms .. => true
  | .getDigests .. => true
  | .getCertificate .. => true
  | .challenge .. => true
  | .getMeasurements .. => true
  | .kaluAdd .. => true
  | .kaluSub .. => true
  | .kaluMul .. => true
  | .kaluMulh .. => true
  | .kaluMulhu .. => true
  | .kaluAnd .. => true
  | .kaluOr .. => true
  | .kaluXor .. => true
  | .kaluAndn .. => true
  | .kaluShl .. => true
  | .kaluShr .. => true
  | .kaluSra .. => true
  | .kaluMin .. => true
  | .kaluMax .. => true
  | .kaluMinu .. => true
  | .kaluMaxu .. => true
  | .kaluClz .. => true
  | .kaluPopc .. => true
  | .addi .. => true
  | .andi .. => true
  | .ori .. => true
  | .xori .. => true
  | .shli .. => true
  | .shri .. => true
  | .srai .. => true
  | .li .. => true
  | .lis .. => true
  | .cmp .. => true
  | .cmpi .. => true
  | .branch .. => true
  | .branchT .. => true
  | .branchF .. => true
  | .call .. => true
  | .callT .. => true
  | .callF .. => true
  | .jr .. => true
  | .jrL .. => true
  | .loop d _ => d != 0
  | .pand .. => true
  | .por .. => true
  | .pnot .. => true
  | .sel .. => true
  | .ldk _ _ z x _ => !(x == 1 && z == 3)
  | .stk .. => true
  | .amok _ _ _ _ p _ _ => p.toNat ≤ 9
  | .cask d _ z _ n _ _ => z != 1 && (z != 0 || (d.getLsbD 0 == false && n.getLsbD 0 == false && n != 0))
  | .waitm .. => true
  | .lrun a n _ => a.toNat + n.toNat ≤ 63
  | .cpop .. => true
  | .lsync => true
  | .setfmt .. => true
  | .getfmt .. => true
  | .sread _ r => readableSpecial r
  | .swrite _ r => r == 0x15
  | .cwait _ c => c != 3
  | .binit .. => true
  | .bexpect .. => true
  | .barrive .. => true
  | .bwait .. => true
  | .btest .. => true
  | .binv .. => true
  | .tcopy _ b q e s n => engineFlagsOk q e n s b
  | .tcopyC _ _ b q e s n => engineFlagsOk q e n s b
  | .rqt _ b q e s n => engineFlagsOk q e n s b
  | .mma _ b q e s n _ => engineFlagsOk q e n s b
  | .tzero .. => true
  | .tload _ b q s n _ => engineFlagsOk q 0 n s b
  | .tstore _ b e s n _ => engineFlagsOk 0 e n s b
  | .tstat .. => true
  | .tgath _ b q e s n => engineFlagsOk q e n s b
  | .pbegin .. => true
  | .pend => true
  | .pendA => true
  | .pabort => true
  | .pquery _ b f => f != 3 && (f == 0 || b == 0)
  | .tspawn .. => true
  | .tdec .. => true
  | .rclaim a => a.getLsbD 0 == false
  | .tfin .. => true
  | .assert .. => true
  | .scall _ a _ => a.toNat ≤ 60
  | .brk .. => true
  | .tret => true
  | .nop => true
  | .ctlEnd => true
  | .iadd f => laneOk 0x01 f
  | .isub f => laneOk 0x02 f
  | .imul f => laneOk 0x03 f
  | .imulh f => laneOk 0x04 f
  | .imad f => laneOk 0x05 f
  | .imin f => laneOk 0x06 f
  | .imax f => laneOk 0x07 f
  | .iabs f => laneOk 0x08 f
  | .laneAnd f => laneOk 0x09 f
  | .laneOr f => laneOk 0x0A f
  | .laneXor f => laneOk 0x0B f
  | .laneNot f => laneOk 0x0C f
  | .laneShl f => laneOk 0x0D f
  | .laneShr f => laneOk 0x0E f
  | .laneSra f => laneOk 0x0F f
  | .bfe f => laneOk 0x10 f
  | .bfi f => laneOk 0x11 f
  | .laneClz f => laneOk 0x12 f
  | .lanePopc f => laneOk 0x13 f
  | .brev f => laneOk 0x14 f
  | .iset f => laneOk 0x15 f
  | .laneSel f => laneOk 0x16 f
  | .mov f => laneOk 0x17 f
  | .movi f => laneOk 0x18 f
  | .fadd f => laneOk 0x20 f
  | .fsub f => laneOk 0x21 f
  | .fmul f => laneOk 0x22 f
  | .ffma f => laneOk 0x23 f
  | .fmin f => laneOk 0x24 f
  | .fmax f => laneOk 0x25 f
  | .frcp f => laneOk 0x26 f
  | .frsq f => laneOk 0x27 f
  | .fsqrt f => laneOk 0x28 f
  | .fexp2 f => laneOk 0x29 f
  | .flog2 f => laneOk 0x2A f
  | .ftanh f => laneOk 0x2B f
  | .fsin f => laneOk 0x2C f
  | .fcos f => laneOk 0x2D f
  | .fset f => laneOk 0x2E f
  | .fclass f => laneOk 0x2F f
  | .frnd f => laneOk 0x30 f
  | .cvt f => laneOk 0x40 f
  | .cvti f => laneOk 0x41 f
  | .pack f => laneOk 0x42 f
  | .unpk f => laneOk 0x43 f
  | .mxq f => laneOk 0x44 f
  | .tagq f => laneOk 0x48 f
  | .tagg f => laneOk 0x49 f
  | .tags f => laneOk 0x4A f
  | .tagm f => laneOk 0x4B f
  | .laneIf f => laneOk 0x50 f
  | .laneElse f => laneOk 0x51 f
  | .endif f => laneOk 0x52 f
  | .laneLoop f => laneOk 0x53 f
  | .laneBrk f => laneOk 0x54 f
  | .cont f => laneOk 0x55 f
  | .endl f => laneOk 0x56 f
  | .exit f => laneOk 0x57 f
  | .lend f => laneOk 0x58 f
  | .yield f => laneOk 0x59 f
  | .laneNop f => laneOk 0x5A f
  | .mand f => laneOk 0x60 f
  | .mor f => laneOk 0x61 f
  | .mnot f => laneOk 0x62 f
  | .vote f => laneOk 0x63 f
  | .shfl f => laneOk 0x64 f
  | .qswp f => laneOk 0x65 f
  | .qred f => laneOk 0x66 f
  | .gred f => laneOk 0x67 f
  | .gscan f => laneOk 0x68 f
  | .ld f => laneOk 0x70 f
  | .st f => laneOk 0x71 f
  | .ldt f => laneOk 0x72 f
  | .stt f => laneOk 0x73 f
  | .atom f => laneOk 0x74 f
  | .cas f => laneOk 0x75 f
  | .pref f => laneOk 0x76 f
  | .xbegin f => f.sub == 0 && laneOk 0x80 f
  | .xbeginS f => f.sub == 1 && laneOk 0x80 f
  | .xend f => laneOk 0x81 f
  | .xabort f => laneOk 0x82 f
  | .xstat f => laneOk 0x83 f
  | .tld f => laneOk 0x88 f
  | .tst f => laneOk 0x89 f
  | .hostLinkRetrain .. => true
  | .hostSnoop .. => true

end Sys2Proof
end

