-- ==== Sys2Proof/Decode.lean ====
section
/-! DEFINITION. Sys2Proof/Decode.lean: words to instructions and back (R299-R316).  Decoding is total: a word is an
instruction or is refused with a reason, and a refused word raises ILLEGAL_OP when it issues.  A control word is
taken apart by major opcode and then by the form fields of its format; a lane word into the fields of R309.  Both
then meet the checks of `Instr.wf` (R314).  The encoder after it is written from the same tables. -/

namespace Sys2Proof

/-- Why a word is no instruction.  Every one of these is the spec's ILLEGAL_OP (R314). -/
inductive DecodeError where
  /-- The major opcode is unassigned (R301, R313). -/
  | unassignedOpcode
  /-- An fn, form or condition value that the maps do not give, or a field that must be 0 is not. -/
  | badForm
  /-- A 10-bit specifier that names no operand (R310). -/
  | badSpecifier
  /-- A field value that R314 refuses for this instruction. -/
  | badField
  /-- The bytes do not make up a word of the stream. -/
  | badLength
  deriving DecidableEq, Repr

/-- The two instruction streams of a group (R121). -/
inductive Stream where
  /-- 32-bit words from the control section. -/
  | control
  /-- 96-bit words from the lane section. -/
  | lane
  deriving DecidableEq, Repr

/-! ## Control words -/

/-- Bits [25:20], the first register field of every format. -/
def fieldD (w : Word32) : BitVec 6 := w.extractLsb' 20 6

/-- Bits [19:14]. -/
def fieldA (w : Word32) : BitVec 6 := w.extractLsb' 14 6

/-- Bits [13:8]. -/
def fieldB (w : Word32) : BitVec 6 := w.extractLsb' 8 6

/-- Bits [7:0] of KR. -/
def fieldFn (w : Word32) : BitVec 8 := w.extractLsb' 0 8

/-- Bits [13:0] of KI. -/
def fieldImm14 (w : Word32) : BitVec 14 := w.extractLsb' 0 14

/-- Bits [13:10] of KE. -/
def fieldBar (w : Word32) : BitVec 4 := w.extractLsb' 10 4

/-- Bits [9:0] of KE and KM. -/
def fieldLow10 (w : Word32) : BitVec 10 := w.extractLsb' 0 10

/-- `i` where the fixed fields hold what the map gives. -/
def whenFixed (c : Bool) (i : Instr) : Except DecodeError Instr :=
  if c then .ok i else .error .badForm

/-- R302: the KALU forms. -/
def decodeKalu (w : Word32) : Except DecodeError Instr :=
  let d := fieldD w
  let a := fieldA w
  let b := fieldB w
  match (fieldFn w).toNat with
  | 0x00 => .ok (.kaluAdd d a b)
  | 0x01 => .ok (.kaluSub d a b)
  | 0x02 => .ok (.kaluMul d a b)
  | 0x03 => .ok (.kaluMulh d a b)
  | 0x04 => .ok (.kaluMulhu d a b)
  | 0x08 => .ok (.kaluAnd d a b)
  | 0x09 => .ok (.kaluOr d a b)
  | 0x0A => .ok (.kaluXor d a b)
  | 0x0B => .ok (.kaluAndn d a b)
  | 0x10 => .ok (.kaluShl d a b)
  | 0x11 => .ok (.kaluShr d a b)
  | 0x12 => .ok (.kaluSra d a b)
  | 0x18 => .ok (.kaluMin d a b)
  | 0x19 => .ok (.kaluMax d a b)
  | 0x1A => .ok (.kaluMinu d a b)
  | 0x1B => .ok (.kaluMaxu d a b)
  | 0x20 => whenFixed (b == 0) (.kaluClz d a)
  | 0x21 => whenFixed (b == 0) (.kaluPopc d a)
  | _ => .error .badForm

/-- R303: the shift group; the form stands in imm14[13:12]. -/
def decodeShift (w : Word32) : Except DecodeError Instr :=
  let d := fieldD w
  let a := fieldA w
  let n : BitVec 6 := w.extractLsb' 0 6
  let z := w.extractLsb' 6 6 == 0#6
  match (w.extractLsb' 12 2).toNat with
  | 0 => whenFixed z (.shli d a n)
  | 1 => whenFixed z (.shri d a n)
  | 2 => whenFixed z (.srai d a n)
  | _ => .error .badForm

/-- R301: B and CALL; `always`, `t` and `f` are the three forms of cc. -/
def decodeBranch (w : Word32) (always : BitVec 19 → Instr) (t f : BitVec 3 → BitVec 19 → Instr) :
    Except DecodeError Instr :=
  let p : BitVec 3 := w.extractLsb' 19 3
  let off : BitVec 19 := w.extractLsb' 0 19
  match (w.extractLsb' 22 4).toNat with
  | 0 => whenFixed (p == 0) (always off)
  | 1 => .ok (t p off)
  | 2 => .ok (f p off)
  | _ => .error .badForm

/-- R303: the predicate group; the form stands in fn[7:5]. -/
def decodePredicate (w : Word32) : Except DecodeError Instr :=
  let pd : BitVec 3 := w.extractLsb' 20 3
  let pa : BitVec 3 := w.extractLsb' 14 3
  let pb : BitVec 3 := w.extractLsb' 8 3
  let p : BitVec 3 := w.extractLsb' 0 3
  let high := w.extractLsb' 23 3 == 0#3 && w.extractLsb' 17 3 == 0#3 && w.extractLsb' 11 3 == 0#3
  let low := w.extractLsb' 0 5 == 0#5
  match (w.extractLsb' 5 3).toNat with
  | 0 => whenFixed (high && low) (.pand pd pa pb)
  | 1 => whenFixed (high && low) (.por pd pa pb)
  | 2 => whenFixed (high && low && pb == 0) (.pnot pd pa)
  | 3 => whenFixed (w.extractLsb' 3 2 == 0#2) (.sel (fieldD w) (fieldA w) (fieldB w) p)
  | _ => .error .badForm

/-- R304: LDK, STK, WAITM, AMOK and CASK, whose size field is [13:12] and scope field [11:10]. -/
def decodeMemory (op : Nat) (w : Word32) : Except DecodeError Instr :=
  let d := fieldD w
  let a := fieldA w
  let sz : BitVec 2 := w.extractLsb' 12 2
  let big := w.getLsbD 13
  let z1 : BitVec 1 := w.extractLsb' 12 1
  let s : BitVec 2 := w.extractLsb' 10 2
  let off := fieldLow10 w
  match op with
  | 0x10 => whenFixed (!w.getLsbD 11) (.ldk d a sz (w.extractLsb' 10 1) off)
  | 0x11 => whenFixed (s == 0) (.stk d a sz off)
  | 0x12 =>
    whenFixed (big && w.extractLsb' 0 4 == 0#4)
      (.amok d a z1 s (w.extractLsb' 6 4) (w.extractLsb' 5 1) (w.extractLsb' 4 1))
  | 0x13 =>
    whenFixed (w.extractLsb' 2 2 == 0#2)
      (.cask d a sz s (w.extractLsb' 4 6) (w.extractLsb' 1 1) (w.extractLsb' 0 1))
  | 0x14 => whenFixed (big && s == 0) (.waitm d a z1 off)
  | _ => .error .unassignedOpcode

/-- R306: the state group; the form stands in imm14[13:12], and imm14[11:8] is 0. -/
def decodeState (w : Word32) : Except DecodeError Instr :=
  let d := fieldD w
  let a := fieldA w
  let r : BitVec 8 := w.extractLsb' 0 8
  let z := w.extractLsb' 8 4 == 0#4
  match (w.extractLsb' 12 2).toNat with
  | 0 => whenFixed (z && d == 0 && r == 0) (.setfmt a)
  | 1 => whenFixed (z && a == 0 && r == 0) (.getfmt d)
  | 2 => whenFixed (z && a == 0) (.sread d r)
  | _ => whenFixed (z && d == 0) (.swrite a r)

/-- R308: the barrier group; the form stands in flags[9:7]. -/
def decodeBarrier (w : Word32) : Except DecodeError Instr :=
  let a := fieldD w
  let b := fieldBar w
  let p : BitVec 3 := w.extractLsb' 0 3
  let z := fieldA w == 0 && w.extractLsb' 3 4 == 0#4
  match (w.extractLsb' 7 3).toNat with
  | 0 => whenFixed (z && p == 0) (.binit a b)
  | 1 => whenFixed (z && p == 0) (.bexpect a b)
  | 2 => whenFixed (z && p == 0 && a == 0) (.barrive b)
  | 3 => whenFixed z (.bwait a b p)
  | 4 => whenFixed z (.btest a b p)
  | 5 => whenFixed (z && p == 0 && a == 0) (.binv b)
  | _ => .error .badForm

/-- R307: TCOPY, TCOPY.C, RQT, MMA and TGATH. -/
def decodeEngine (op : Nat) (w : Word32) : Except DecodeError Instr :=
  let a := fieldD w
  let kb := fieldA w
  let b := fieldBar w
  let q : BitVec 1 := w.extractLsb' 9 1
  let e : BitVec 1 := w.extractLsb' 8 1
  let s : BitVec 2 := w.extractLsb' 6 2
  let n : BitVec 1 := w.extractLsb' 5 1
  let per : BitVec 5 := w.extractLsb' 0 5
  match op with
  | 0x21 =>
    if per == 0 then whenFixed (kb == 0) (.tcopy a b q e s n)
    else whenFixed (per == 0x10) (.tcopyC a kb b q e s n)
  | 0x22 => whenFixed (kb == 0 && per == 0) (.rqt a b q e s n)
  | 0x23 => whenFixed (kb == 0) (.mma a b q e s n per)
  | 0x26 => whenFixed (kb == 0 && per == 0) (.tgath a b q e s n)
  | _ => .error .unassignedOpcode

/-- R308: the tile group; the kb field is the form.  TLOAD has no REL and TSTORE no ACQ (R361). -/
def decodeTile (w : Word32) : Except DecodeError Instr :=
  let a := fieldD w
  let b := fieldBar w
  let s : BitVec 2 := w.extractLsb' 6 2
  let n : BitVec 1 := w.extractLsb' 5 1
  let z : BitVec 5 := w.extractLsb' 0 5
  match (fieldA w).toNat with
  | 0 => whenFixed (a == 0 && b == 0 && w.extractLsb' 5 5 == 0#5) (.tzero z)
  | 1 => whenFixed (!w.getLsbD 8) (.tload a b (w.extractLsb' 9 1) s n z)
  | 2 => whenFixed (!w.getLsbD 9) (.tstore a b (w.extractLsb' 8 1) s n z)
  | _ => .error .badForm

/-- R301: the instruction of a control word whose fixed fields hold what the map gives; the field limits of R314
are `Instr.wf`'s. -/
def controlForm (w : Word32) : Except DecodeError Instr :=
  let d := fieldD w
  let a := fieldA w
  let b := fieldB w
  let imm := fieldImm14 w
  let fn := fieldFn w
  let cond : BitVec 3 := w.extractLsb' 23 3
  let cp : BitVec 3 := w.extractLsb' 20 3
  let noFields := w.extractLsb' 0 26 == 0#26
  match (w.extractLsb' 26 6).toNat with
  | 0x01 => decodeKalu w
  | 0x02 => .ok (.addi d a imm)
  | 0x03 => .ok (.andi d a imm)
  | 0x04 => .ok (.ori d a imm)
  | 0x05 => .ok (.xori d a imm)
  | 0x06 => decodeShift w
  | 0x07 => .ok (.li d (w.extractLsb' 0 20))
  | 0x08 => .ok (.lis d (w.extractLsb' 0 20))
  | 0x09 => whenFixed (fn == 0) (.cmp cond cp a b)
  | 0x0A => .ok (.cmpi cond cp a imm)
  | 0x0B => decodeBranch w .branch .branchT .branchF
  | 0x0C => decodeBranch w .call .callT .callF
  | 0x0D =>
    if fn == 0 then whenFixed (d == 0 && b == 0) (.jr a)
    else whenFixed (fn == 1 && d == 0 && b == 0) (.jrL a)
  | 0x0E => whenFixed (a == 0) (.loop d imm)
  | 0x0F => decodePredicate w
  | 0x10 => decodeMemory 0x10 w
  | 0x11 => decodeMemory 0x11 w
  | 0x12 => decodeMemory 0x12 w
  | 0x13 => decodeMemory 0x13 w
  | 0x14 => decodeMemory 0x14 w
  | 0x18 => .ok (.lrun d (w.extractLsb' 17 3) (w.extractLsb' 0 17))
  | 0x19 => whenFixed (w.extractLsb' 0 20 == 0#20) (.cpop d)
  | 0x1A => whenFixed noFields .lsync
  | 0x1C => decodeState w
  | 0x1D => whenFixed (d == 0 && b == 0 && w.extractLsb' 2 6 == 0#6) (.cwait a (w.extractLsb' 0 2))
  | 0x20 => decodeBarrier w
  | 0x21 => decodeEngine 0x21 w
  | 0x22 => decodeEngine 0x22 w
  | 0x23 => decodeEngine 0x23 w
  | 0x24 => decodeTile w
  | 0x25 => whenFixed (a == 0 && w.extractLsb' 6 8 == 0#8) (.tstat d (w.extractLsb' 5 1) (w.extractLsb' 0 5))
  | 0x26 => decodeEngine 0x26 w
  | 0x28 => whenFixed (w.extractLsb' 0 20 == 0#20) (.pbegin d)
  | 0x29 =>
    if w.extractLsb' 0 26 == 0#26 then .ok .pend
    else whenFixed (w.extractLsb' 0 26 == 1#26) .pendA
  | 0x2A => whenFixed noFields .pabort
  | 0x2B => whenFixed (w.extractLsb' 2 12 == 0#12) (.pquery d a (w.extractLsb' 0 2))
  | 0x2C => whenFixed (w.extractLsb' 0 3 == 0#3) (.tspawn d a (w.extractLsb' 11 3) (w.extractLsb' 3 8))
  | 0x2D => whenFixed (w.extractLsb' 0 14 == 0#14) (.tdec d a)
  | 0x2E => whenFixed (w.extractLsb' 0 20 == 0#20) (.rclaim d)
  | 0x2F => whenFixed (w.extractLsb' 8 18 == 0#18) (.tfin (w.extractLsb' 0 8))
  | 0x30 =>
    whenFixed (d == 0 && b == 0 && w.extractLsb' 4 4 == 0#4) (.assert a (w.extractLsb' 3 1) (w.extractLsb' 0 3))
  | 0x31 => .ok (.scall d a imm)
  | 0x32 => whenFixed (d == 0) (.brk (w.extractLsb' 0 20))
  | 0x33 => whenFixed noFields .tret
  | 0x34 => whenFixed noFields .nop
  | 0x35 => whenFixed noFields .ctlEnd
  | _ => .error .unassignedOpcode

/-- R314: an instruction whose fields the rule accepts. -/
def checked (i : Instr) : Except DecodeError Instr := if i.wf then .ok i else .error .badField

/-- The instruction of a control word. -/
def decodeControl (w : Word32) : Except DecodeError Instr := (controlForm w).bind checked

/-! ## Lane words -/

/-- R310. -/
def decodeOperand (x : BitVec 10) : Except DecodeError Operand :=
  match (x.extractLsb' 8 2).toNat with
  | 0 => .ok (.v (x.extractLsb' 0 8))
  | 1 => if x.extractLsb' 4 4 == 0#4 then .ok (.o (x.extractLsb' 0 4)) else .error .badSpecifier
  | 2 =>
    match (x.extractLsb' 6 2).toNat with
    | 0 => if x.extractLsb' 2 4 == 0#4 then .ok (.l (x.extractLsb' 0 2)) else .error .badSpecifier
    | 1 => if x.extractLsb' 3 3 == 0#3 then .ok (.a (x.extractLsb' 0 3)) else .error .badSpecifier
    | 2 => if x.extractLsb' 0 6 == 0#6 then .ok .imm else .error .badSpecifier
    | _ =>
      match (x.extractLsb' 0 6).toNat with
      | 0 => .ok .zero
      | 1 => .ok .one
      | 2 => .ok .laneid
      | 3 => .ok .quadid
      | 4 => .ok .groupid
      | _ => .error .badSpecifier
  | _ => .error .badSpecifier

/-- R309: the fields of a lane word. -/
def decodeFields (w : LaneWord) : Except DecodeError LaneFields := do
  let dst ← decodeOperand (w.extractLsb' 70 10)
  let a ← decodeOperand (w.extractLsb' 60 10)
  let b ← decodeOperand (w.extractLsb' 50 10)
  let c ← decodeOperand (w.extractLsb' 40 10)
  return { sub := w.extractLsb' 84 4, guard := ⟨w.getLsbD 83, w.extractLsb' 80 3⟩, dst, a, b, c,
           ty := w.extractLsb' 36 4, rnd := w.extractLsb' 33 3, sat := w.extractLsb' 32 1,
           imm := w.extractLsb' 0 32 }

/-- R313: the instruction that major opcode `op` names. -/
def laneInstr (op : Nat) (f : LaneFields) : Except DecodeError Instr :=
  match op with
  | 0x01 => .ok (.iadd f)
  | 0x02 => .ok (.isub f)
  | 0x03 => .ok (.imul f)
  | 0x04 => .ok (.imulh f)
  | 0x05 => .ok (.imad f)
  | 0x06 => .ok (.imin f)
  | 0x07 => .ok (.imax f)
  | 0x08 => .ok (.iabs f)
  | 0x09 => .ok (.laneAnd f)
  | 0x0A => .ok (.laneOr f)
  | 0x0B => .ok (.laneXor f)
  | 0x0C => .ok (.laneNot f)
  | 0x0D => .ok (.laneShl f)
  | 0x0E => .ok (.laneShr f)
  | 0x0F => .ok (.laneSra f)
  | 0x10 => .ok (.bfe f)
  | 0x11 => .ok (.bfi f)
  | 0x12 => .ok (.laneClz f)
  | 0x13 => .ok (.lanePopc f)
  | 0x14 => .ok (.brev f)
  | 0x15 => .ok (.iset f)
  | 0x16 => .ok (.laneSel f)
  | 0x17 => .ok (.mov f)
  | 0x18 => .ok (.movi f)
  | 0x20 => .ok (.fadd f)
  | 0x21 => .ok (.fsub f)
  | 0x22 => .ok (.fmul f)
  | 0x23 => .ok (.ffma f)
  | 0x24 => .ok (.fmin f)
  | 0x25 => .ok (.fmax f)
  | 0x26 => .ok (.frcp f)
  | 0x27 => .ok (.frsq f)
  | 0x28 => .ok (.fsqrt f)
  | 0x29 => .ok (.fexp2 f)
  | 0x2A => .ok (.flog2 f)
  | 0x2B => .ok (.ftanh f)
  | 0x2C => .ok (.fsin f)
  | 0x2D => .ok (.fcos f)
  | 0x2E => .ok (.fset f)
  | 0x2F => .ok (.fclass f)
  | 0x30 => .ok (.frnd f)
  | 0x40 => .ok (.cvt f)
  | 0x41 => .ok (.cvti f)
  | 0x42 => .ok (.pack f)
  | 0x43 => .ok (.unpk f)
  | 0x44 => .ok (.mxq f)
  | 0x48 => .ok (.tagq f)
  | 0x49 => .ok (.tagg f)
  | 0x4A => .ok (.tags f)
  | 0x4B => .ok (.tagm f)
  | 0x50 => .ok (.laneIf f)
  | 0x51 => .ok (.laneElse f)
  | 0x52 => .ok (.endif f)
  | 0x53 => .ok (.laneLoop f)
  | 0x54 => .ok (.laneBrk f)
  | 0x55 => .ok (.cont f)
  | 0x56 => .ok (.endl f)
  | 0x57 => .ok (.exit f)
  | 0x58 => .ok (.lend f)
  | 0x59 => .ok (.yield f)
  | 0x5A => .ok (.laneNop f)
  | 0x60 => .ok (.mand f)
  | 0x61 => .ok (.mor f)
  | 0x62 => .ok (.mnot f)
  | 0x63 => .ok (.vote f)
  | 0x64 => .ok (.shfl f)
  | 0x65 => .ok (.qswp f)
  | 0x66 => .ok (.qred f)
  | 0x67 => .ok (.gred f)
  | 0x68 => .ok (.gscan f)
  | 0x70 => .ok (.ld f)
  | 0x71 => .ok (.st f)
  | 0x72 => .ok (.ldt f)
  | 0x73 => .ok (.stt f)
  | 0x74 => .ok (.atom f)
  | 0x75 => .ok (.cas f)
  | 0x76 => .ok (.pref f)
  | 0x80 => if f.sub == 1 then .ok (.xbeginS f) else .ok (.xbegin f)
  | 0x81 => .ok (.xend f)
  | 0x82 => .ok (.xabort f)
  | 0x83 => .ok (.xstat f)
  | 0x88 => .ok (.tld f)
  | 0x89 => .ok (.tst f)
  | _ => .error .unassignedOpcode

/-- The instruction of a lane word. -/
def decodeLane (w : LaneWord) : Except DecodeError Instr := do
  let f ← decodeFields w
  let i ← laneInstr (w.extractLsb' 88 8).toNat f
  checked i

/-! ## Bytes -/

/-- R309, R299: a little-endian number from its bytes. -/
def leNat : List Byte → Nat
  | [] => 0
  | x :: xs => x.toNat + 256 * leNat xs

/-- `n` little-endian bytes of `x`. -/
def leBytes : Nat → Nat → List Byte
  | 0, _ => []
  | n + 1, x => BitVec.ofNat 8 x :: leBytes n (x / 256)

/-- The instruction that a stream's next bytes hold, and the bytes after it. -/
def decodeBytes (st : Stream) (bs : List Byte) : Except DecodeError (Instr × List Byte) :=
  match st with
  | .control =>
    if bs.length < 4 then .error .badLength
    else (decodeControl (BitVec.ofNat 32 (leNat (bs.take 4)))).map (·, bs.drop 4)
  | .lane =>
    if bs.length < 12 then .error .badLength
    else (decodeLane (BitVec.ofNat 96 (leNat (bs.take 12)))).map (·, bs.drop 12)

/-- The decoder on a word of the opcode table: 32 bits are a control word, 96 bits a lane word, laid out as the
hardware stores them, low byte first. -/
def decodeTableWord (nbits w : Nat) : Option Instr :=
  let st := if nbits = 96 then Stream.lane else Stream.control
  if nbits = 32 ∨ nbits = 96 then
    match decodeBytes st (leBytes (nbits / 8) w) with
    | .ok (i, _) => some i
    | .error _ => none
  else none

/-! ## The encoder -/

/-- Format KR (R299). -/
def encKR (op d a b : BitVec 6) (fn : BitVec 8) : Word32 := op ++ d ++ a ++ b ++ fn

/-- Format KI. -/
def encKI (op d a : BitVec 6) (imm : BitVec 14) : Word32 := op ++ d ++ a ++ imm

/-- Format KU. -/
def encKU (op d : BitVec 6) (imm : BitVec 20) : Word32 := op ++ d ++ imm

/-- Format KB. -/
def encKB (op : BitVec 6) (cc : BitVec 4) (cp : BitVec 3) (off : BitVec 19) : Word32 := op ++ cc ++ cp ++ off

/-- Format KM. -/
def encKM (op d a : BitVec 6) (sz scope : BitVec 2) (off : BitVec 10) : Word32 := op ++ d ++ a ++ sz ++ scope ++ off

/-- Format KL. -/
def encKL (op a : BitVec 6) (nargs : BitVec 3) (off : BitVec 17) : Word32 := op ++ a ++ nargs ++ off

/-- Format KE. -/
def encKE (op a b : BitVec 6) (bar : BitVec 4) (flags : BitVec 10) : Word32 := op ++ a ++ b ++ bar ++ flags

/-- R307: the flags of an engine command. -/
def encFlags (acq rel : BitVec 1) (scope : BitVec 2) (nb : BitVec 1) (per : BitVec 5) : BitVec 10 :=
  acq ++ rel ++ scope ++ nb ++ per

/-- R310. -/
def encodeOperand : Operand → BitVec 10
  | .v n => 0#2 ++ n
  | .o n => 1#2 ++ 0#4 ++ n
  | .l n => 2#2 ++ 0#6 ++ n
  | .a n => 2#2 ++ 1#2 ++ 0#3 ++ n
  | .imm => 2#2 ++ 2#2 ++ 0#6
  | .zero => 2#2 ++ 3#2 ++ 0#6
  | .one => 2#2 ++ 3#2 ++ 1#6
  | .laneid => 2#2 ++ 3#2 ++ 2#6
  | .quadid => 2#2 ++ 3#2 ++ 3#6
  | .groupid => 2#2 ++ 3#2 ++ 4#6

/-- R309. -/
def encodeLane (op : BitVec 8) (f : LaneFields) : LaneWord :=
  op ++ f.sub ++ BitVec.ofBool f.guard.neg ++ f.guard.m ++ encodeOperand f.dst ++ encodeOperand f.a ++
    encodeOperand f.b ++ encodeOperand f.c ++ f.ty ++ f.rnd ++ f.sat ++ f.imm

/-- What an instruction is written as: nothing for a machine event, one control word, or one lane word. -/
inductive Encoding where
  /-- A machine event, which no word encodes. -/
  | none
  /-- A control word. -/
  | control (w : Word32)
  /-- A lane word. -/
  | lane (w : LaneWord)
  deriving DecidableEq, Repr

/-- The word of an instruction. -/
def encode : Instr → Encoding
  | .alwaysOnPower .. => .none
  | .deviceReset .. => .none
  | .bistComplete .. => .none
  | .flitCrcFail .. => .none
  | .moduleFail .. => .none
  | .hostLinkFail .. => .none
  | .networkReset .. => .none
  | .eccUe .. => .none
  | .queueEcc .. => .none
  | .registerWrite .. => .none
  | .rcFieldRead .. => .none
  | .nsStep .. => .none
  | .createCmd .. => .none
  | .startCmd .. => .none
  | .haltCmd .. => .none
  | .destroyCmd .. => .none
  | .windowWrite .. => .none
  | .windowRead .. => .none
  | .apertureWrite .. => .none
  | .apertureRead .. => .none
  | .apertureBadAccess .. => .none
  | .wakeWrite .. => .none
  | .counterDecrement .. => .none
  | .dispatchUnit .. => .none
  | .netEnqueue .. => .none
  | .rangeSplit .. => .none
  | .residenceMark .. => .none
  | .preempt .. => .none
  | .saveComplete .. => .none
  | .restore .. => .none
  | .laneBlockStart .. => .none
  | .loadComplete .. => .none
  | .storeAck .. => .none
  | .walkComplete .. => .none
  | .logicalTick .. => .none
  | .migrationStart .. => .none
  | .migrationComplete .. => .none
  | .engineComplete .. => .none
  | .groupRetire .. => .none
  | .teamRetire .. => .none
  | .recordComplete .. => .none
  | .batchClose .. => .none
  | .netOperation .. => .none
  | .netAck .. => .none
  | .netAckTimeout .. => .none
  | .netIncoming .. => .none
  | .netRemoteDecrement .. => .none
  | .cqConsRead .. => .none
  | .cqReread .. => .none
  | .waitmWake .. => .none
  | .waitmRecheck .. => .none
  | .txWatchdog .. => .none
  | .serialTokenGrant .. => .none
  | .regionTrip .. => .none
  | .regionRestart .. => .none
  | .shadowFull .. => .none
  | .regionCommit .. => .none
  | .engineStop .. => .none
  | .partitionHalted .. => .none
  | .dumpWrite .. => .none
  | .dbgStop .. => .none
  | .dbgResume .. => .none
  | .dbgStep .. => .none
  | .dbgStepEnd .. => .none
  | .dbgKill .. => .none
  | .dbgKillComplete .. => .none
  | .dbgSnap .. => .none
  | .snapshotLatch .. => .none
  | .traceSample .. => .none
  | .portGate .. => .none
  | .boostBoundary .. => .none
  | .permitAccrue .. => .none
  | .getVersion .. => .none
  | .getCapabilities .. => .none
  | .negotiateAlgorithms .. => .none
  | .getDigests .. => .none
  | .getCertificate .. => .none
  | .challenge .. => .none
  | .getMeasurements .. => .none
  | .kaluAdd d a b => .control (encKR 0x01 d a b 0x00)
  | .kaluSub d a b => .control (encKR 0x01 d a b 0x01)
  | .kaluMul d a b => .control (encKR 0x01 d a b 0x02)
  | .kaluMulh d a b => .control (encKR 0x01 d a b 0x03)
  | .kaluMulhu d a b => .control (encKR 0x01 d a b 0x04)
  | .kaluAnd d a b => .control (encKR 0x01 d a b 0x08)
  | .kaluOr d a b => .control (encKR 0x01 d a b 0x09)
  | .kaluXor d a b => .control (encKR 0x01 d a b 0x0A)
  | .kaluAndn d a b => .control (encKR 0x01 d a b 0x0B)
  | .kaluShl d a b => .control (encKR 0x01 d a b 0x10)
  | .kaluShr d a b => .control (encKR 0x01 d a b 0x11)
  | .kaluSra d a b => .control (encKR 0x01 d a b 0x12)
  | .kaluMin d a b => .control (encKR 0x01 d a b 0x18)
  | .kaluMax d a b => .control (encKR 0x01 d a b 0x19)
  | .kaluMinu d a b => .control (encKR 0x01 d a b 0x1A)
  | .kaluMaxu d a b => .control (encKR 0x01 d a b 0x1B)
  | .kaluClz d a => .control (encKR 0x01 d a 0 0x20)
  | .kaluPopc d a => .control (encKR 0x01 d a 0 0x21)
  | .addi d a i => .control (encKI 0x02 d a i)
  | .andi d a i => .control (encKI 0x03 d a i)
  | .ori d a i => .control (encKI 0x04 d a i)
  | .xori d a i => .control (encKI 0x05 d a i)
  | .shli d a n => .control (encKI 0x06 d a (0#2 ++ 0#6 ++ n))
  | .shri d a n => .control (encKI 0x06 d a (1#2 ++ 0#6 ++ n))
  | .srai d a n => .control (encKI 0x06 d a (2#2 ++ 0#6 ++ n))
  | .li d i => .control (encKU 0x07 d i)
  | .lis d i => .control (encKU 0x08 d i)
  | .cmp c p a b => .control (encKR 0x09 (c ++ p) a b 0)
  | .cmpi c p a i => .control (encKI 0x0A (c ++ p) a i)
  | .branch o => .control (encKB 0x0B 0 0 o)
  | .branchT p o => .control (encKB 0x0B 1 p o)
  | .branchF p o => .control (encKB 0x0B 2 p o)
  | .call o => .control (encKB 0x0C 0 0 o)
  | .callT p o => .control (encKB 0x0C 1 p o)
  | .callF p o => .control (encKB 0x0C 2 p o)
  | .jr a => .control (encKR 0x0D 0 a 0 0)
  | .jrL a => .control (encKR 0x0D 0 a 0 1)
  | .loop d o => .control (encKI 0x0E d 0 o)
  | .pand d a b => .control (encKR 0x0F (0#3 ++ d) (0#3 ++ a) (0#3 ++ b) (0#3 ++ 0#5))
  | .por d a b => .control (encKR 0x0F (0#3 ++ d) (0#3 ++ a) (0#3 ++ b) (1#3 ++ 0#5))
  | .pnot d a => .control (encKR 0x0F (0#3 ++ d) (0#3 ++ a) 0 (2#3 ++ 0#5))
  | .sel d a b p => .control (encKR 0x0F d a b (3#3 ++ 0#2 ++ p))
  | .ldk d a z x o => .control (encKM 0x10 d a z (0#1 ++ x) o)
  | .stk d a z o => .control (encKM 0x11 d a z 0 o)
  | .amok d a z s p q e => .control (encKM 0x12 d a (1#1 ++ z) s (p ++ q ++ e ++ 0#4))
  | .cask d a z s n q e => .control (encKM 0x13 d a z s (n ++ 0#2 ++ q ++ e))
  | .waitm d a z o => .control (encKM 0x14 d a (1#1 ++ z) 0 o)
  | .lrun a n o => .control (encKL 0x18 a n o)
  | .cpop d => .control (encKU 0x19 d 0)
  | .lsync => .control (encKU 0x1A 0 0)
  | .setfmt a => .control (encKI 0x1C 0 a (0#2 ++ 0#12))
  | .getfmt d => .control (encKI 0x1C d 0 (1#2 ++ 0#12))
  | .sread d r => .control (encKI 0x1C d 0 (2#2 ++ 0#4 ++ r))
  | .swrite a r => .control (encKI 0x1C 0 a (3#2 ++ 0#4 ++ r))
  | .cwait a c => .control (encKR 0x1D 0 a 0 (0#6 ++ c))
  | .binit a b => .control (encKE 0x20 a 0 b (0#3 ++ 0#7))
  | .bexpect a b => .control (encKE 0x20 a 0 b (1#3 ++ 0#7))
  | .barrive b => .control (encKE 0x20 0 0 b (2#3 ++ 0#7))
  | .bwait a b p => .control (encKE 0x20 a 0 b (3#3 ++ 0#4 ++ p))
  | .btest a b p => .control (encKE 0x20 a 0 b (4#3 ++ 0#4 ++ p))
  | .binv b => .control (encKE 0x20 0 0 b (5#3 ++ 0#7))
  | .tcopy a b q e s n => .control (encKE 0x21 a 0 b (encFlags q e s n 0))
  | .tcopyC a k b q e s n => .control (encKE 0x21 a k b (encFlags q e s n 0x10))
  | .rqt a b q e s n => .control (encKE 0x22 a 0 b (encFlags q e s n 0))
  | .mma a b q e s n z => .control (encKE 0x23 a 0 b (encFlags q e s n z))
  | .tzero z => .control (encKE 0x24 0 0 0 (0#5 ++ z))
  | .tload a b q s n z => .control (encKE 0x24 a 1 b (encFlags q 0 s n z))
  | .tstore a b e s n z => .control (encKE 0x24 a 2 b (encFlags 0 e s n z))
  | .tstat d c z => .control (encKE 0x25 d 0 0 (0#4 ++ c ++ z))
  | .tgath a b q e s n => .control (encKE 0x26 a 0 b (encFlags q e s n 0))
  | .pbegin a => .control (encKE 0x28 a 0 0 0)
  | .pend => .control (encKE 0x29 0 0 0 0)
  | .pendA => .control (encKE 0x29 0 0 0 1)
  | .pabort => .control (encKE 0x2A 0 0 0 0)
  | .pquery d b f => .control (encKE 0x2B d b 0 (0#8 ++ f))
  | .tspawn a b c t => .control ((0x2C#6 ++ a ++ b ++ c ++ t ++ 0#3))
  | .tdec a b => .control (encKE 0x2D a b 0 0)
  | .rclaim a => .control (encKE 0x2E a 0 0 0)
  | .tfin c => .control (encKE 0x2F 0 0 0 (0#2 ++ c))
  | .assert a n p => .control (encKR 0x30 0 a 0 (0#4 ++ n ++ p))
  | .scall d a c => .control (encKI 0x31 d a c)
  | .brk c => .control (encKU 0x32 0 c)
  | .tret => .control (encKR 0x33 0 0 0 0)
  | .nop => .control (encKR 0x34 0 0 0 0)
  | .ctlEnd => .control (encKR 0x35 0 0 0 0)
  | .iadd f => .lane (encodeLane 0x01 f)
  | .isub f => .lane (encodeLane 0x02 f)
  | .imul f => .lane (encodeLane 0x03 f)
  | .imulh f => .lane (encodeLane 0x04 f)
  | .imad f => .lane (encodeLane 0x05 f)
  | .imin f => .lane (encodeLane 0x06 f)
  | .imax f => .lane (encodeLane 0x07 f)
  | .iabs f => .lane (encodeLane 0x08 f)
  | .laneAnd f => .lane (encodeLane 0x09 f)
  | .laneOr f => .lane (encodeLane 0x0A f)
  | .laneXor f => .lane (encodeLane 0x0B f)
  | .laneNot f => .lane (encodeLane 0x0C f)
  | .laneShl f => .lane (encodeLane 0x0D f)
  | .laneShr f => .lane (encodeLane 0x0E f)
  | .laneSra f => .lane (encodeLane 0x0F f)
  | .bfe f => .lane (encodeLane 0x10 f)
  | .bfi f => .lane (encodeLane 0x11 f)
  | .laneClz f => .lane (encodeLane 0x12 f)
  | .lanePopc f => .lane (encodeLane 0x13 f)
  | .brev f => .lane (encodeLane 0x14 f)
  | .iset f => .lane (encodeLane 0x15 f)
  | .laneSel f => .lane (encodeLane 0x16 f)
  | .mov f => .lane (encodeLane 0x17 f)
  | .movi f => .lane (encodeLane 0x18 f)
  | .fadd f => .lane (encodeLane 0x20 f)
  | .fsub f => .lane (encodeLane 0x21 f)
  | .fmul f => .lane (encodeLane 0x22 f)
  | .ffma f => .lane (encodeLane 0x23 f)
  | .fmin f => .lane (encodeLane 0x24 f)
  | .fmax f => .lane (encodeLane 0x25 f)
  | .frcp f => .lane (encodeLane 0x26 f)
  | .frsq f => .lane (encodeLane 0x27 f)
  | .fsqrt f => .lane (encodeLane 0x28 f)
  | .fexp2 f => .lane (encodeLane 0x29 f)
  | .flog2 f => .lane (encodeLane 0x2A f)
  | .ftanh f => .lane (encodeLane 0x2B f)
  | .fsin f => .lane (encodeLane 0x2C f)
  | .fcos f => .lane (encodeLane 0x2D f)
  | .fset f => .lane (encodeLane 0x2E f)
  | .fclass f => .lane (encodeLane 0x2F f)
  | .frnd f => .lane (encodeLane 0x30 f)
  | .cvt f => .lane (encodeLane 0x40 f)
  | .cvti f => .lane (encodeLane 0x41 f)
  | .pack f => .lane (encodeLane 0x42 f)
  | .unpk f => .lane (encodeLane 0x43 f)
  | .mxq f => .lane (encodeLane 0x44 f)
  | .tagq f => .lane (encodeLane 0x48 f)
  | .tagg f => .lane (encodeLane 0x49 f)
  | .tags f => .lane (encodeLane 0x4A f)
  | .tagm f => .lane (encodeLane 0x4B f)
  | .laneIf f => .lane (encodeLane 0x50 f)
  | .laneElse f => .lane (encodeLane 0x51 f)
  | .endif f => .lane (encodeLane 0x52 f)
  | .laneLoop f => .lane (encodeLane 0x53 f)
  | .laneBrk f => .lane (encodeLane 0x54 f)
  | .cont f => .lane (encodeLane 0x55 f)
  | .endl f => .lane (encodeLane 0x56 f)
  | .exit f => .lane (encodeLane 0x57 f)
  | .lend f => .lane (encodeLane 0x58 f)
  | .yield f => .lane (encodeLane 0x59 f)
  | .laneNop f => .lane (encodeLane 0x5A f)
  | .mand f => .lane (encodeLane 0x60 f)
  | .mor f => .lane (encodeLane 0x61 f)
  | .mnot f => .lane (encodeLane 0x62 f)
  | .vote f => .lane (encodeLane 0x63 f)
  | .shfl f => .lane (encodeLane 0x64 f)
  | .qswp f => .lane (encodeLane 0x65 f)
  | .qred f => .lane (encodeLane 0x66 f)
  | .gred f => .lane (encodeLane 0x67 f)
  | .gscan f => .lane (encodeLane 0x68 f)
  | .ld f => .lane (encodeLane 0x70 f)
  | .st f => .lane (encodeLane 0x71 f)
  | .ldt f => .lane (encodeLane 0x72 f)
  | .stt f => .lane (encodeLane 0x73 f)
  | .atom f => .lane (encodeLane 0x74 f)
  | .cas f => .lane (encodeLane 0x75 f)
  | .pref f => .lane (encodeLane 0x76 f)
  | .xbegin f => .lane (encodeLane 0x80 f)
  | .xbeginS f => .lane (encodeLane 0x80 f)
  | .xend f => .lane (encodeLane 0x81 f)
  | .xabort f => .lane (encodeLane 0x82 f)
  | .xstat f => .lane (encodeLane 0x83 f)
  | .tld f => .lane (encodeLane 0x88 f)
  | .tst f => .lane (encodeLane 0x89 f)
  | .hostLinkRetrain .. => .none
  | .hostSnoop .. => .none

/-- The instruction a word decodes to. -/
def decode : Encoding → Except DecodeError Instr
  | .none => .error .badLength
  | .control w => decodeControl w
  | .lane w => decodeLane w

end Sys2Proof
end

