-- ==== Sys2Proof/Machine/Bits.lean ====
section
/-! DEFINITION. Sys2Proof/Machine/Bits.lean: bit fields, byte order, masks of lanes and the cause codes of R272. -/

namespace Sys2Proof.Machine

/-- Bits [hi:lo] of a 64-bit word, as a number. -/
def field (w : Word) (lo n : Nat) : Nat := (w.toNat >>> lo) % 2 ^ n

/-- Bit `i` of a 64-bit word. -/
def bit (w : Word) (i : Nat) : Bool := w.getLsbD i

/-- `x` as 1 or 0. -/
def b2n (x : Bool) : Nat := if x then 1 else 0

/-- A word from a field value and its place. -/
def at_ (x lo : Nat) : Word := BitVec.ofNat 64 (x <<< lo)

/-- The OR of the parts. -/
def word (parts : List Word) : Word := parts.foldl (· ||| ·) 0

/-- Little-endian bytes of a word. -/
def wordBytes (n : Nat) (w : Word) : List Byte := leBytes n w.toNat

/-- The word that little-endian bytes hold. -/
def bytesWord (bs : List Byte) : Word := BitVec.ofNat 64 (leNat bs)

/-- Sign-extend the low `n` bits of `x` to 64. -/
def signExt (n : Nat) (x : Nat) : Word := ((BitVec.ofNat n x).signExtend 64)

/-- The lanes, 0 to 31. -/
def lanes : List Nat := List.range 32

/-- Lane `i` of a mask. -/
def lane (m : Word32) (i : Nat) : Bool := m.getLsbD i

/-- The mask of one lane. -/
def laneBit (i : Nat) : Word32 := 1#32 <<< i

/-- The mask of the lanes that satisfy `p`. -/
def maskOf (p : Nat → Bool) : Word32 := lanes.foldl (fun m i => if p i then m ||| laneBit i else m) 0

/-- The lanes of a mask, ascending. -/
def lanesOf (m : Word32) : List Nat := lanes.filter (lane m)

/-- Lanes set. -/
def popcount (m : Word32) : Nat := (lanesOf m).length

/-- The lowest lane of a mask. -/
def lowestLane (m : Word32) : Option Nat := (lanesOf m).head?

/-- `f` applied over a list with a state. -/
def foldState {α σ : Type} (l : List α) (s : σ) (f : α → σ → σ) : σ := l.foldl (fun s x => f x s) s

/-- Insert into a list that is in order. -/
def insertBy {α : Type} (le : α → α → Bool) (x : α) : List α → List α
  | [] => [x]
  | y :: ys => if le x y then x :: y :: ys else y :: insertBy le x ys

/-- Put a list in order. -/
def sortBy {α : Type} (le : α → α → Bool) (l : List α) : List α := l.foldr (insertBy le) []

/-- R272: SIGTRAP. -/
def causeSigtrap : BitVec 8 := 0x01
/-- R272: BRK. -/
def causeBrk : BitVec 8 := 0x02
/-- R272: TAG_FORM. -/
def causeTagForm : BitVec 8 := 0x03
/-- R272: TAG_OP. -/
def causeTagOp : BitVec 8 := 0x04
/-- R272: ILLEGAL_OP. -/
def causeIllegalOp : BitVec 8 := 0x10
/-- R272: MISALIGNED. -/
def causeMisaligned : BitVec 8 := 0x11
/-- R272: BAD_WINDOW. -/
def causeBadWindow : BitVec 8 := 0x12
/-- R272: PAGE_INVALID. -/
def causePageInvalid : BitVec 8 := 0x13
/-- R272: PAGE_FORMAT. -/
def causePageFormat : BitVec 8 := 0x14
/-- R272: PAGE_PROT. -/
def causePageProt : BitVec 8 := 0x15
/-- R272: PAGE_RANGE. -/
def causePageRange : BitVec 8 := 0x16
/-- R272: LINK_POISON. -/
def causeLinkPoison : BitVec 8 := 0x17
/-- R272: HOST_ABORT. -/
def causeHostAbort : BitVec 8 := 0x18
/-- R272: NC_ATOMIC. -/
def causeNcAtomic : BitVec 8 := 0x19
/-- R272: COPY_BOUNDS. -/
def causeCopyBounds : BitVec 8 := 0x1A
/-- R272: BAR_BUSY. -/
def causeBarBusy : BitVec 8 := 0x1B
/-- R272: BAR_MISUSE. -/
def causeBarMisuse : BitVec 8 := 0x1C
/-- R272: MASK_OVF. -/
def causeMaskOvf : BitVec 8 := 0x1D
/-- R272: MASK_UNBAL. -/
def causeMaskUnbal : BitVec 8 := 0x1E
/-- R272: CQ_OVF. -/
def causeCqOvf : BitVec 8 := 0x1F
/-- R272: CQ_STARVE. -/
def causeCqStarve : BitVec 8 := 0x20
/-- R272: TRAP_NEST. -/
def causeTrapNest : BitVec 8 := 0x21
/-- R272: TX_NEST. -/
def causeTxNest : BitVec 8 := 0x22
/-- R272: TX_NONE. -/
def causeTxNone : BitVec 8 := 0x23
/-- R272: REGION_LIVEIN. -/
def causeRegionLivein : BitVec 8 := 0x24
/-- R272: REGION_MISMATCH. -/
def causeRegionMismatch : BitVec 8 := 0x25
/-- R272: REGION_NEST. -/
def causeRegionNest : BitVec 8 := 0x26
/-- R272: REGION_EFFECT. -/
def causeRegionEffect : BitVec 8 := 0x27
/-- R272: REGION_NONE. -/
def causeRegionNone : BitVec 8 := 0x28
/-- R272: REGION_TRIP. -/
def causeRegionTrip : BitVec 8 := 0x29
/-- R272: ASSERT. -/
def causeAssert : BitVec 8 := 0x2A
/-- R272: ECC_UE. -/
def causeEccUe : BitVec 8 := 0x2B
/-- R272: QUEUE_ECC. -/
def causeQueueEcc : BitVec 8 := 0x2C
/-- R272: TASK_POISON. -/
def causeTaskPoison : BitVec 8 := 0x2D
/-- R272: NO_CALLQ. -/
def causeNoCallq : BitVec 8 := 0x2E
/-- R272: NET_FAIL. -/
def causeNetFail : BitVec 8 := 0x2F
/-- R272: HOST_HALT. -/
def causeHostHalt : BitVec 8 := 0x30
/-- R272: FABRIC_LOSS. -/
def causeFabricLoss : BitVec 8 := 0x31

end Sys2Proof.Machine
end

