-- ==== Sys2Proof/Machine/Map.lean ====
section
/-! DEFINITION. Sys2Proof/Machine/Map.lean: sparse tables as plain data.  A table is a list of (key, value) pairs
with rising keys; a key that is not listed reads as the table's default, and writing the default removes the entry, so
that equal tables are equal lists. -/

namespace Sys2Proof.Machine

/-- A sparse table: keys strictly rising, no listed value equal to the default. -/
abbrev SMap (α : Type) := List (Nat × α)

/-- The value at `k`, or the default `d`. -/
def SMap.get {α : Type} (d : α) : SMap α → Nat → α
  | [], _ => d
  | (i, x) :: m, k => if i == k then x else SMap.get d m k

/-- Drop every entry of `k`. -/
def SMap.del {α : Type} : SMap α → Nat → SMap α
  | [], _ => []
  | (i, x) :: m, k => if i == k then SMap.del m k else (i, x) :: SMap.del m k

/-- Insert an entry in key order. -/
def SMap.insert {α : Type} (k : Nat) (v : α) : SMap α → SMap α
  | [] => [(k, v)]
  | (i, x) :: m => if k < i then (k, v) :: (i, x) :: m else (i, x) :: SMap.insert k v m

/-- Give `k` the value `v`. -/
def SMap.put {α : Type} (m : SMap α) (k : Nat) (v : α) : SMap α := SMap.insert k v (SMap.del m k)

/-- Give `k` the value `v` in a table whose default is `d`. -/
def SMap.set {α : Type} [DecidableEq α] (d : α) (m : SMap α) (k : Nat) (v : α) : SMap α :=
  if v = d then SMap.del m k else SMap.put m k v

/-- The value at `k`, if one is listed. -/
def SMap.find? {α : Type} : SMap α → Nat → Option α
  | [], _ => none
  | (i, x) :: m, k => if i == k then some x else SMap.find? m k

/-- The listed keys. -/
def SMap.keys {α : Type} (m : SMap α) : List Nat := m.map (·.1)

/-- The listed values. -/
def SMap.vals {α : Type} (m : SMap α) : List α := m.map (·.2)

/-- Keys strictly rising, all of them at least `n`. -/
def SMap.rising {α : Type} : Nat → SMap α → Bool
  | _, [] => true
  | n, (i, _) :: m => decide (n ≤ i) && SMap.rising (i + 1) m

end Sys2Proof.Machine
end

