-- ==== Sys2Proof/Machine/State.lean ====
section
/-! DEFINITION. Sys2Proof/Machine/State.lean: every piece of state the spec gives the NL7, as plain data, and the state
after reset.  The package, the partitions with their task machine and debug page, the cores with their engines, the
teams, and the groups with their two streams are records; registers, slots and tables are sparse maps (`SMap`).
The last record holds the model's own fields: the agenda that says what happens next, the counter behind the free
values and the write buffer of the step in progress. -/

namespace Sys2Proof.Machine

/-! ## Values of lane registers -/

/-- R127: one lane of a v or o register: 32 bits and the tag. -/
structure LaneVal where
  /-- The bits. -/
  bits : Word32 := 0
  /-- The significance tag. -/
  tag : Tag := 0
  deriving DecidableEq, Repr, Inhabited

/-- R130: one lane of an l register: 64 bits and a tag. -/
structure LaneVal64 where
  /-- The bits. -/
  bits : Word := 0
  /-- The significance tag. -/
  tag : Tag := 0
  deriving DecidableEq, Repr, Inhabited

/-! ## A group -/

/-- R134 [82:81]. -/
inductive MaskKind where
  /-- An IF before its ELSE. -/
  | ifThen
  /-- An IF after its ELSE. -/
  | ifElse
  /-- A LOOP. -/
  | loop
  deriving DecidableEq, Repr

/-- R134: a mask-stack entry. -/
structure MaskEntry where
  /-- Lane FMT at the push. -/
  fmt : Word32
  /-- IF, ELSE or LOOP. -/
  kind : MaskKind
  /-- LOOP: word index of the first body word. -/
  head : BitVec 17
  /-- IF: lanes waiting for ELSE; LOOP: lanes held by CONT. -/
  pend : Word32
  /-- CUR to restore. -/
  outer : Word32
  deriving DecidableEq, Repr

/-- R122: an entry of the lane queue. -/
structure LaneBlock where
  /-- off17. -/
  start : BitVec 17
  /-- The snapshot of a0 upwards. -/
  args : List Word
  /-- The copy of the control FMT. -/
  fmt : Word32
  deriving DecidableEq, Repr

/-- What one memory instruction in flight still has to deliver when it completes (R137, R139). -/
inductive Landing where
  /-- A control register. -/
  | k (reg : Nat) (v : Word)
  /-- One lane of a v register. -/
  | v (key : Nat) (x : LaneVal)
  /-- One lane of an o register. -/
  | o (key : Nat) (x : LaneVal)
  deriving DecidableEq, Repr

/-- Where the value goes that an access to the non-coherent window has still to read (R188). -/
inductive LateDest where
  /-- Nowhere: a form that returns nothing. -/
  | none
  /-- A control register, sign-extended or not (R330). -/
  | k (reg : Nat) (sx : Bool)
  /-- A control register and the next one, 128 bits (R332). -/
  | kPair (reg : Nat)
  /-- A lane's registers: the word's fields, the lane, and the tag byte that LDT has read. -/
  | lane (f : LaneFields) (lane : Nat) (tag : Option Nat)
  /-- R172, R407, R408: the lanes of one AtomicOp, each with what the lanes before it add. -/
  | lanes (f : LaneFields) (pre : List (Nat × Nat))
  deriving DecidableEq, Repr

/-- What an access to the non-coherent window does when its request reaches the host (R60). -/
inductive LateOp where
  /-- A read. -/
  | read
  /-- FetchAdd. -/
  | add (x : Nat)
  /-- Swap. -/
  | swap (x : Nat)
  /-- CAS. -/
  | cas (old new : Nat)
  /-- FetchAdd of TDEC (R51, R367): partition, counter and decrement. -/
  | dec (part : Nat) (va n : Word)
  deriving DecidableEq, Repr

/-- An access to the non-coherent window whose request has not reached the host (R60, R188). -/
structure LateAccess where
  /-- Location of the first byte. -/
  loc : Nat
  /-- Bytes. -/
  len : Nat
  /-- What it does. -/
  op : LateOp := .read
  /-- Where its value goes. -/
  dest : LateDest
  /-- Generic address as issued. -/
  addr : Word := 0
  /-- Lane, or 32 for the control stream. -/
  lane : Nat := 32
  deriving DecidableEq, Repr

/-- One memory instruction in flight: what it delivers, nothing for a store. -/
structure Flight where
  /-- The values fixed at issue. -/
  land : List Landing := []
  /-- R61: a system-scope atomic with ACQ holds later accesses until it returns. -/
  acq : Bool := false
  /-- Posted to the non-coherent window (R59). -/
  nonCoherent : Bool := false
  /-- The number of the issue, counted by the group, that lets SCALL wait for earlier stores only (R341). -/
  seq : Nat := 0
  /-- The region in which it writes, which the commit waits for (R215). -/
  region : Option Nat := none
  /-- R188: its accesses to the non-coherent window whose requests have not reached the host. -/
  late : List LateAccess := []
  deriving DecidableEq, Repr

/-- Why an instruction of a stream waits before it completes (R112). -/
inductive Wait where
  /-- THROTTLE, counter 0. -/
  | throttle
  /-- PARKED, counter 1. -/
  | parked
  /-- REGION_COMMIT, counter 2. -/
  | regionCommit
  /-- TX_COMMIT, counter 3. -/
  | txCommit
  /-- BAR_WAIT, counter 4. -/
  | barWait
  /-- CWAIT_GL, counter 5. -/
  | cwaitGl
  /-- CWAIT_SP, counter 6. -/
  | cwaitSp
  /-- CWAIT_ST, counter 7. -/
  | cwaitSt
  /-- CQ_WAIT, counter 8. -/
  | cqWait
  /-- ENGINE_FULL, counter 9. -/
  | engineFull
  /-- TRANSLATE, counter 10. -/
  | translate
  /-- MASKSTK, counter 11. -/
  | maskStk
  /-- FETCH, counter 12. -/
  | fetch
  /-- DEP, counter 13. -/
  | dep
  /-- LQ_EMPTY, counter 14. -/
  | lqEmpty
  /-- PORT_BUSY, counter 15. -/
  | portBusy
  deriving DecidableEq, Repr

/-- R109: what parks a control stream. -/
inductive Park where
  /-- WAITM: its register, address and width, the watched location, whether a wake has reached it, and the physical time at
  which it parked (R110, R333). -/
  | waitm (kd : BitVec 6) (addr : Word) (n : Nat) (loc : Nat) (wake : Bool) (since : Nat)
  /-- SCALL before its slot is taken: result register, call number, PC, arguments; `after` is the newest store it
  waits for (R341). -/
  | scall (kd : BitVec 6) (callno : BitVec 14) (pc : Word) (args : List Word) (after : Nat)
  /-- SCALL with its record posted in `slot`. -/
  | call (kd : BitVec 6) (slot : Nat)
  deriving DecidableEq, Repr

/-- R143: the block in progress set aside by a trap. -/
structure TrapSlot where
  /-- Whether the lane stream was running a block. -/
  running : Bool
  /-- Lane PC. -/
  lpc : Nat
  /-- CUR. -/
  cur : Word32
  /-- Mask stack, innermost first. -/
  stack : List MaskEntry
  /-- Skip depth. -/
  skip : Nat
  /-- Lane FMT. -/
  lfmt : Word32
  /-- l0-l3. -/
  l : SMap LaneVal64
  /-- a0-a7. -/
  a : SMap Word
  deriving DecidableEq, Repr

/-- A program trap on its way into the handler (R273). -/
structure Trap where
  /-- R272. -/
  cause : BitVec 8
  /-- PC of the trapping instruction. -/
  pc : Word
  /-- Lanes that raised it. -/
  lanes : Word32
  /-- DETAIL. -/
  detail : Word32
  /-- TRAPINFO2. -/
  info2 : Word
  /-- STREAM: the control stream raised it. -/
  control : Bool
  /-- TX: it aborted transactions (R238). -/
  tx : Bool
  deriving DecidableEq, Repr

/-- One entry of a read or write log (R229). -/
structure LogEntry where
  /-- Physical address of the granule. -/
  granule : Nat
  /-- Eight bytes, low first. -/
  bytes : List Byte
  /-- Write log: which of them are written. -/
  mask : BitVec 8
  deriving DecidableEq, Repr

/-- R229. -/
structure TxState where
  /-- TXD. -/
  depth : Nat := 0
  /-- TXBASE. -/
  base : Nat := 0
  /-- TXTGT. -/
  tgt : BitVec 17 := 0
  /-- TXSER. -/
  serial : Bool := false
  /-- TXA. -/
  active : Word32 := 0
  /-- TXX. -/
  rejoin : Word32 := 0
  /-- TXW. -/
  watch : Nat := 0
  /-- XC, by lane. -/
  xc : SMap Word32 := []
  /-- Read logs, by lane, oldest entry first. -/
  reads : SMap (List LogEntry) := []
  /-- Write logs, by lane. -/
  writes : SMap (List LogEntry) := []
  /-- The summary that SREAD TXCAUSE returns (R237). -/
  cause : Word := 0
  /-- Lanes whose XEND found the serial token held (R240 `waited`). -/
  waited : Bool := false
  deriving DecidableEq, Repr

/-- The position of a stopped group (R275, R276). -/
inductive Stop where
  /-- Not stopped. -/
  | none
  /-- By the partition's halt line. -/
  | halt
  /-- By the debugger. -/
  | debug
  /-- By pre-emption or a kill. -/
  | leaving
  deriving DecidableEq, Repr

/-- One access made by the instruction in progress, for watchpoints (R285). -/
structure Access where
  /-- Lane, or 32 for the control stream. -/
  lane : Nat
  /-- Generic address as issued. -/
  addr : Word
  /-- Location of the first byte. -/
  loc : Nat
  /-- Bytes. -/
  len : Nat
  /-- A read. -/
  rd : Bool
  /-- A write. -/
  wr : Bool
  /-- Data watchpoints that it has hit, once it has been compared with them (R430). -/
  hits : Option Byte := none
  deriving DecidableEq, Repr

/-- R182: bytes that a write of an engine command has replaced. -/
structure Replaced where
  /-- The number of the command. -/
  cmd : Nat
  /-- Location of the first byte. -/
  loc : Nat
  /-- The bytes that stood there. -/
  bytes : List Byte
  deriving DecidableEq, Repr

/-- A group: the state of R116, R121-R139, R229 and R273. -/
structure Group where
  /-- Partition. -/
  part : Nat := 0
  /-- Key of its team. -/
  team : Nat := 0
  /-- Index in its team (TID). -/
  idx : Nat := 0
  /-- Port, 0-3. -/
  port : Nat := 0
  /-- Slot in its port, 0-15. -/
  slot : Nat := 0
  /-- k0-k63. -/
  k : SMap Word := []
  /-- c0-c7. -/
  c : BitVec 8 := 0
  /-- Control PC. -/
  cpc : Word := 0
  /-- Control FMT. -/
  fmt : Word32 := 0
  /-- v registers, key register * 32 + lane. -/
  v : SMap LaneVal := []
  /-- o registers, key register * 32 + lane. -/
  o : SMap LaneVal := []
  /-- l registers, key register * 32 + lane. -/
  l : SMap LaneVal64 := []
  /-- a0-a7 of the block in progress. -/
  a : SMap Word := []
  /-- m1-m7. -/
  m : SMap Word32 := []
  /-- Lane PC; a Nat, so that a block may stand past 0x1_FFFF until its next word is due (R121). -/
  lpc : Nat := 0
  /-- Lane FMT. -/
  lfmt : Word32 := 0
  /-- LIVE. -/
  live : Word32 := 0xFFFFFFFF
  /-- CUR. -/
  cur : Word32 := 0xFFFFFFFF
  /-- Mask stack, innermost entry first. -/
  stack : List MaskEntry := []
  /-- Skip depth (R136). -/
  skip : Nat := 0
  /-- A lane block is in progress. -/
  running : Bool := false
  /-- Lane queue, oldest first. -/
  lq : List LaneBlock := []
  /-- Condition queue, oldest first. -/
  cq : List Word := []
  /-- Loads in flight, oldest first (GL). -/
  gl : List Flight := []
  /-- Window loads in flight (SP). -/
  sp : List Flight := []
  /-- Stores in flight (ST). -/
  st : List Flight := []
  /-- Number given to the next memory instruction. -/
  seq : Nat := 0
  /-- In the trap handler (R144). -/
  inHandler : Bool := false
  /-- Trap slot. -/
  trapSlot : Option TrapSlot := none
  /-- The handler-block position, occupied until its block ends (R144). -/
  handlerBlock : Option LaneBlock := none
  /-- A control-stream trap held behind a lane trap (R143). -/
  heldTrap : Option Trap := none
  /-- TRAPV. -/
  trapV : Word := 0
  /-- TRAPPC. -/
  trapPc : Word := 0
  /-- TRAPLANES. -/
  trapLanes : Word := 0
  /-- TRAPINFO0. -/
  trapInfo0 : Word := 0
  /-- TRAPINFO1. -/
  trapInfo1 : Word := 0
  /-- TRAPINFO2. -/
  trapInfo2 : Word := 0
  /-- TRAPINFO3. -/
  trapInfo3 : Word := 0
  /-- Transactions. -/
  tx : TxState := {}
  /-- What the control stream's instruction waits for. -/
  cwait : Option Wait := none
  /-- What the lane stream's instruction waits for. -/
  lwait : Option Wait := none
  /-- The threshold that a waiting CWAIT read at its issue (R339). -/
  threshold : Option Word := none
  /-- BWAIT registered at a barrier: barrier, phase bit, predicate (R141). -/
  atBarrier : Option (Nat × Bool × Nat) := none
  /-- Parked control stream. -/
  park : Option Park := none
  /-- Waiting at PBEGIN, with the effective descriptor address (R192). -/
  atPbegin : Option Word := none
  /-- Has closed the open region (R215); `some true` under PEND, which waits for the commit. -/
  closed : Option Bool := none
  /-- END executed. -/
  ended : Bool := false
  /-- Retired (R117). -/
  retired : Bool := false
  /-- Stopped between two instructions. -/
  stop : Stop := .none
  /-- A stop broadcast of the debugger has reached it, and it has not stopped yet (R275, R285). -/
  asked : Bool := false
  /-- Under a single step of this stream (R286). -/
  stepping : Option Bool := none
  /-- The stepped instruction has completed, and its record is due (R286). -/
  stepOver : Bool := false
  /-- Streams stopped by a fetch watchpoint before the word they issue next: bit 0 lane, bit 1 control (R285). -/
  passed : BitVec 2 := 0
  /-- Cycle of its cluster's clock at which its trace sample was last due (R288). -/
  sampled : Nat := 0
  /-- Instructions issued since the halt line or stop broadcast arrived (SKID). -/
  skid : Nat := 0
  /-- Waits for the restart of an aborted region (R211). -/
  restarting : Bool := false
  /-- Stall counters by number (R111). -/
  stall : SMap Word32 := []
  /-- GROUP_CYCLES. -/
  groupCycles : Nat := 0
  /-- ISSUE_CYCLES. -/
  issueCycles : Nat := 0
  /-- LANE_ISSUED. -/
  laneIssued : Nat := 0
  /-- CTL_ISSUED. -/
  ctlIssued : Nat := 0
  /-- PAIRED. -/
  paired : Nat := 0
  /-- The control PC stands at the SCALL that has parked the control stream (R275, R341). -/
  inCall : Bool := false
  /-- MODEL: clocks of its cluster in which it has issued and that ISSUE_CYCLES does not count yet. -/
  issued : List Nat := []
  /-- MODEL: streams whose memory instruction waits for a page walk: bit 0 lane, bit 1 control (R163). -/
  walking : BitVec 2 := 0
  /-- MODEL: bytes that the group's own writes have replaced, newest first, which an unflagged element read may still
  return (R182). -/
  past : List Host.Cell := []
  /-- MODEL: bytes that the writes of its engine commands have replaced, newest first (R182). -/
  behind : List Replaced := []
  /-- MODEL: accesses that its WAITM has made and that a data watchpoint has hit, newest first (R285, R430). -/
  seen : List Access := []
  deriving DecidableEq, Repr, Inhabited

/-! ## Accesses -/

/-- Where an access goes. -/
inductive Target where
  /-- Device memory, by physical address. -/
  | dev (pa : Nat)
  /-- Host memory, by host address; coherent or not (R57). -/
  | host (a : Nat) (coherent : Bool)
  /-- A team's scratchpad. -/
  | spad (team off : Nat)
  deriving DecidableEq, Repr

/-! ## Regions, slots and engine commands -/

/-- The checkpoint of one group (R196). -/
structure GroupCheckpoint where
  /-- k1-k63. -/
  k : SMap Word
  /-- c0-c7. -/
  c : BitVec 8
  /-- Control FMT. -/
  fmt : Word32
  /-- Control PC of the instruction after PBEGIN. -/
  cpc : Word
  /-- MODEL: what the group's writes had replaced (R182). -/
  past : List Host.Cell := []
  /-- MODEL: what its engine commands' writes had replaced (R182). -/
  behind : List Replaced := []
  deriving DecidableEq, Repr, Inhabited

/-- A precision region in flight (R192-R220). -/
structure Region where
  /-- A number that tells the team's regions apart. -/
  id : Nat
  /-- Address of the descriptor. -/
  addr : Word
  /-- The descriptor as read at opening: eight words (R193). -/
  desc : List Word
  /-- Current rung. -/
  rung : Nat
  /-- Rung at which the instance started. -/
  start : Nat
  /-- The starting rung came from a Locus hit. -/
  hit : Bool
  /-- Speculative; false in non-speculative mode (R220). -/
  spec : Bool
  /-- q of R210. -/
  replays : Nat := 0
  /-- A top-rung action COMMIT_FLAGGED or SATURATE has been taken (R213). -/
  flagged : Bool := false
  /-- Some element was saturated. -/
  sat : Bool := false
  /-- TRIPMON of the last trip. -/
  tripMon : BitVec 2 := 0
  /-- MINTAG of the pass. -/
  minTag : BitVec 6 := 0x3F
  /-- MAXEXP of the pass, nothing if none. -/
  maxExp : Option Int := none
  /-- Underflow count of the pass. -/
  uflow : Nat := 0
  /-- Monitor crossing to be acted on (R207, R210), with the command that raised it as its stop record names it. -/
  trip : Option (BitVec 2) := none
  /-- GID of that command. -/
  tripGid : Nat := 0
  /-- Progress word of that command. -/
  tripProg : Word := 0
  /-- The number of that command. -/
  tripCmd : Nat := 0
  /-- A version line or shadow line was not available (R204, R220). -/
  starved : Bool := false
  /-- Where the region status word goes, translated at the opening (R195); nothing where RSW is 0. -/
  rsw : Option Target := none
  /-- Barriers the region has updated (R201). -/
  touched : BitVec 16 := 0
  /-- Checkpoint of each group, by index. -/
  ckpt : SMap GroupCheckpoint
  /-- Checkpoint of the team's barriers. -/
  ckptBars : SMap Word
  /-- Uncommitted bytes, by location (R202, R203). -/
  writes : List Host.Cell := []
  deriving DecidableEq, Repr

/-- One element of an accumulator slot (R206). -/
structure Elem where
  /-- The 32 bits. -/
  bits : Word32
  /-- Tag S. -/
  tag : Tag
  /-- Abs-sum exponent byte. -/
  abs : Byte
  deriving DecidableEq, Repr, Inhabited

/-- What an element of a slot that nothing has written holds. -/
inductive SlotBase where
  /-- Unspecified (R91): the free value of this epoch. -/
  | free (epoch : Nat)
  /-- +0 with the tag TZERO gave. -/
  | zero (tag : Tag)
  deriving DecidableEq, Repr

/-- An accumulator slot with its sidecar and status word (R199, R206, R208). -/
structure Slot where
  /-- Elements not listed. -/
  base : SlotBase := .free 0
  /-- Elements, key row * 64 + column. -/
  elems : SMap Elem := []
  /-- The written bit of R199. -/
  written : Bool := false
  /-- Status word; MINTAG resets to 0x3F. -/
  status : Word := 0xFC0000
  deriving DecidableEq, Repr, Inhabited

/-- The engine commands (R281). -/
inductive CmdKind where
  /-- OPC 1. -/
  | tcopy
  /-- OPC 2. -/
  | rqt
  /-- OPC 3. -/
  | mma
  /-- OPC 4. -/
  | tload
  /-- OPC 5. -/
  | tstore
  /-- OPC 6. -/
  | tgath
  /-- OPC 7: one slice of a collective. -/
  | tcopyC
  /-- TZERO, which keeps slot order and has no progress word. -/
  | tzero
  deriving DecidableEq, Repr

/-- R182: an aligned part, of at most eight bytes, of an element write that its block leaves to a later point. -/
structure HeldWrite where
  /-- The block. -/
  block : Nat
  /-- Generic address of the first byte, which its point translates again (R161). -/
  addr : Word
  /-- Location of the first byte as the block found it. -/
  loc : Nat
  /-- Bytes. -/
  bytes : List Byte
  deriving DecidableEq, Repr

/-- An accepted engine command that has not completed (R346, R347). -/
structure Cmd where
  /-- A number that orders acceptances. -/
  id : Nat
  /-- What it is. -/
  kind : CmdKind
  /-- Partition. -/
  part : Nat
  /-- Team key. -/
  team : Nat
  /-- Group index in the team. -/
  group : Nat
  /-- GID of the group at acceptance. -/
  gid : Nat
  /-- Address of the descriptor. -/
  addr : Word
  /-- The descriptor as read at acceptance, eight words. -/
  desc : List Word
  /-- Barrier named, if any. -/
  bar : Option Nat
  /-- ACQ. -/
  acq : Bool
  /-- REL. -/
  rel : Bool
  /-- SCOPE. -/
  scope : BitVec 2
  /-- Accumulator slot. -/
  slot : Nat
  /-- Region carried from acceptance. -/
  region : Option Nat
  /-- Rung entry carried (R194), if a region is carried. -/
  rung : Word32
  /-- FMT[5:3] at acceptance (R256). -/
  dmode : BitVec 3
  /-- TCOPY.C: slice number, collective and slices. -/
  slice : Nat := 0
  /-- COLLID. -/
  collid : Nat := 0
  /-- NSLICES. -/
  nslices : Nat := 0
  /-- Blocks completed (INDEX). -/
  done : Nat := 0
  /-- Bytes written so far. -/
  bytes : Nat := 0
  /-- Its engine has stopped it at a block boundary. -/
  stopped : Bool := false
  /-- MMA: its crossing of the range monitor has been counted (R209). -/
  crossed : Bool := false
  /-- It holds the reference at its barrier: every command that names one, but for the later slices of a collective
  (R354). -/
  holdsRef : Bool := true
  /-- Copies: what the unit that straddles the end of the last block has still to write: addresses and bytes. -/
  carry : List (Word × List Byte) := []
  /-- TGATH: the row in progress and the index that was read for it (R356). -/
  row : Option (Nat × Nat) := none
  /-- MMA: rows of A, raw elements with their scales, as read when it started or resumed (R359). -/
  opA : List (List (Nat × Option Nat)) := []
  /-- MMA: rows of B. -/
  opB : List (List (Nat × Option Nat)) := []
  /-- MODEL: writes of blocks that have run which are not yet performed (R182). -/
  held : List HeldWrite := []
  /-- MODEL: aligned eight-byte parts of its sources that have been read ahead of their block, by address (R182). -/
  fetched : List (Word × List Byte) := []
  /-- It has arrived at its barrier, and only held writes are left of it (R182). -/
  arrived : Bool := false
  deriving DecidableEq, Repr

/-! ## Teams and cores -/

/-- A task-type table entry as read at placement (R76). -/
structure TaskType where
  /-- Registers per lane, N. -/
  regs : Nat := 32
  /-- Groups per team. -/
  groups : Nat := 1
  /-- COHORT: cohort size minus 1. -/
  cohort : Nat := 0
  /-- Accumulator slots. -/
  zslots : Nat := 0
  /-- Barrier registers. -/
  bars : Nat := 0
  /-- Scratchpad, KiB. -/
  spad : Nat := 0
  /-- CTLBASE. -/
  ctlBase : Word := 0
  /-- LANEBASE. -/
  laneBase : Word := 0
  /-- TRAPV. -/
  trapV : Word := 0
  /-- LDEF. -/
  ldef : Word := 0
  /-- FMT0. -/
  fmt0 : Word32 := 0
  deriving DecidableEq, Repr, Inhabited

/-- What a team holds of its core (R78, R96). -/
structure Allot where
  /-- Port and slot of each group, by index. -/
  seats : List (Nat × Nat) := []
  /-- First register row on each port, with the number of rows. -/
  rows : List (Nat × Nat × Nat) := []
  /-- First scratchpad unit. -/
  spad : Nat := 0
  /-- Scratchpad units. -/
  spadN : Nat := 0
  /-- First accumulator slot. -/
  z : Nat := 0
  /-- Accumulator slots. -/
  zN : Nat := 0
  /-- First barrier register. -/
  bar : Nat := 0
  /-- Barrier registers. -/
  barN : Nat := 0
  deriving DecidableEq, Repr, Inhabited

/-- Where a team stands in its life. -/
inductive TeamPhase where
  /-- No team has this key, or the team has retired and freed its allotment. -/
  | absent
  /-- On a core. -/
  | resident
  /-- Stopped and being saved (R279). -/
  | saving
  /-- In a save slot, on a re-admit list (R107). -/
  | saved
  /-- Being killed (R282). -/
  | killing
  /-- Retired or killed, holding its allotment until its cohort is done (R118). -/
  | done
  deriving DecidableEq, Repr

/-- A team (R77, R96-R114, R140, R192). -/
structure Team where
  /-- Partition. -/
  part : Nat := 0
  /-- Number of its launch in the partition. -/
  launch : Nat := 0
  /-- Unit number. -/
  unit : Nat := 0
  /-- Member of its cohort. -/
  member : Nat := 0
  /-- Key of member 0 of its cohort. -/
  cohort : Nat := 0
  /-- Class. -/
  cls : Nat := 0
  /-- Task-type index. -/
  ttype : Nat := 0
  /-- The type entry as read at placement. -/
  type : TaskType := {}
  /-- PARAM of its unit. -/
  param : Word := 0
  /-- Completion entry of a spawned unit (R85). -/
  completion : Word := 0
  /-- Core, die * 64 + cluster * 4 + core. -/
  core : Nat := 0
  /-- Its allotment. -/
  allot : Allot := {}
  /-- Uses the core's reserved set (R93). -/
  reserved : Bool := false
  /-- Phase. -/
  phase : TeamPhase := .absent
  /-- Barrier registers, by number (R140). -/
  bars : SMap Word := []
  /-- Accumulator slots, by number. -/
  slots : SMap Slot := []
  /-- Rotation pointers of the team on its core's ports, key port * 2, and 1 more for control selection (R101). -/
  pointers : SMap Nat := []
  /-- Nanoseconds at first admission. -/
  admitNs : Nat := 0
  /-- Nanoseconds at last admission. -/
  lastAdmitNs : Nat := 0
  /-- Nanoseconds when the last group retired. -/
  retireNs : Nat := 0
  /-- The 2 ms mark has been seen (R108). -/
  marked : Bool := false
  /-- PREEMPTS. -/
  preempts : Nat := 0
  /-- REPLAYS. -/
  replays : Nat := 0
  /-- KILLED. -/
  killed : Bool := false
  /-- Open region. -/
  openRegion : Option Region := none
  /-- Pending region. -/
  pending : Option Region := none
  /-- REGSEQ. -/
  regSeq : Nat := 0
  /-- PQUERY.last. -/
  lastStatus : Word := 0
  /-- Number given to the next region. -/
  nextRegion : Nat := 0
  /-- A region abort waits for its drains before the restart (R211); the flag says whether the restart is
  non-speculative (R220). -/
  restart : Option Bool := none
  /-- Save slot held (R280). -/
  saveSlot : Option Nat := none
  /-- Commands kept with the save (R279). -/
  savedCmds : List Cmd := []
  /-- MODEL: 32-bit words of its code that have been fetched ahead, by address, newest first (R316). -/
  ahead : List (Word × Word32) := []
  /-- The order number of its pre-emption. -/
  preemptSeq : Nat := 0
  deriving DecidableEq, Repr, Inhabited

/-- A core (R78, R99, R161, R204, R283, R345). -/
structure Core where
  /-- Team keys in age order (R99). -/
  teamQ : List Nat := []
  /-- Copy-engine commands accepted and not complete, in order. -/
  copyQ : List Cmd := []
  /-- Matrix-engine commands. -/
  matQ : List Cmd := []
  /-- Logical clock, in ticks (R161). -/
  ticks : Nat := 0
  /-- The held-back class-0 set (R93). -/
  resv : Option Allot := none
  /-- MODEL: the next clock of each port in which no instruction has issued, key port * 2, and 1 more for the control
  stream (R101). -/
  slots : SMap Nat := []
  /-- Clock-gated ports (R283). -/
  gated : BitVec 4 := 0
  /-- Cycle of the cluster's clock since which every group of a port has been parked or absent, by port. -/
  idleFrom : SMap Nat := []
  deriving DecidableEq, Repr, Inhabited

/-- A cluster (R30-R34): boost state and clock. -/
structure Cluster where
  /-- EN. -/
  en : Bool := true
  /-- PERMITS. -/
  permits : Nat := 64
  /-- STATE: 0 nominal, 1 at 2.1 GHz, 2 at 1.9 GHz. -/
  clk : Nat := 0
  /-- Boost slot held. -/
  slot : Option Nat := none
  /-- Cycles of its clock since reset (CLK). -/
  cycles : Nat := 0
  /-- Twentieths of a cycle beyond them. -/
  frac : Nat := 0
  /-- Nanoseconds of issue stop still to run after a clock change (R33). -/
  throttleNs : Nat := 0
  /-- Nanoseconds spent at nominal towards the next permit (R32). -/
  nominalNs : Nat := 0
  deriving DecidableEq, Repr, Inhabited

/-! ## The task machine and the debug page of a partition -/

/-- R43 STATE. -/
inductive PartState where
  /-- 0. -/
  | free
  /-- 1. -/
  | config
  /-- 2. -/
  | run
  /-- 3. -/
  | halted
  deriving DecidableEq, Repr

/-- A launch in progress (R77-R85). -/
structure Launch where
  /-- Its number in the partition, oldest lowest. -/
  id : Nat
  /-- Address of the task record. -/
  record : Word
  /-- RANGE, rather than KERNEL. -/
  range : Bool
  /-- RANGE: DRAW, rather than SPLIT. -/
  draw : Bool
  /-- Task type. -/
  ttype : Nat
  /-- Class. -/
  cls : Nat
  /-- Units to place. -/
  units : Nat
  /-- Next unit to place. -/
  next : Nat := 0
  /-- Next unused unit number for splits. -/
  nextUnit : Nat
  /-- GRAIN. -/
  grain : Nat := 1
  /-- SPLIT: the interval [c, e) of each unit. -/
  ivs : SMap (Nat × Nat) := []
  /-- A TFIN has been executed. -/
  finished : Bool := false
  /-- Teams started. -/
  started : Nat := 0
  /-- Teams retired or killed. -/
  retired : Nat := 0
  /-- PARAM. -/
  param : Word := 0
  /-- HKEY. -/
  hkey : Word32 := 0
  /-- TREC. -/
  trec : Word := 0
  /-- Merged launch: its aggregator slot. -/
  slot : Option Nat := none
  deriving DecidableEq, Repr

/-- An aggregator batch or the launch it became (R85). -/
structure Batch where
  /-- Slot, 16 * die to 16 * die + 15. -/
  slot : Nat
  /-- Task type. -/
  ttype : Nat
  /-- Class. -/
  cls : Nat
  /-- Entries. -/
  entries : Nat
  /-- Still open. -/
  isOpen : Bool
  /-- Order of opening. -/
  order : Nat
  /-- Cluster of its first spawner, whose clock times it. -/
  cluster : Nat
  /-- Cycles of that clock at the first spawn. -/
  since : Nat
  deriving DecidableEq, Repr

/-- R79: what a completed record still has to do, one decrement at a time. -/
inductive Work where
  /-- A successor's decrement: the completed record, the counter's address, and the decrement. -/
  | dec (record addr : Word) (n : Nat)
  /-- Entry `i` of the successor overflow block at `addr` (R68). -/
  | block (record addr : Word) (i : Nat)
  deriving DecidableEq, Repr

/-- The kind of a network operation. -/
inductive NetKind where
  /-- NET_PUT. -/
  | put
  /-- NET_GET. -/
  | get
  /-- NET_ATOMIC. -/
  | atomic
  deriving DecidableEq, Repr

/-- A network operation in flight (R87-R90). -/
structure NetOp where
  /-- A number for the packets to name. -/
  id : Nat
  /-- Address of the record. -/
  record : Word
  /-- Kind. -/
  kind : NetKind
  /-- Record words as read at acceptance (16). -/
  words : List Word
  /-- Packets sent. -/
  packets : Nat
  /-- Packets acknowledged, by number, with the bytes that each answer carried. -/
  acked : SMap (List Byte) := []
  /-- Nanoseconds at which each packet that has not been answered was sent. -/
  sent : SMap Nat := []
  /-- Endpoint entry, four words. -/
  endpoint : List Word
  deriving DecidableEq, Repr

/-- R89: what follows once every byte of a transfer of the network engine has been performed. -/
inductive NetEnd where
  /-- Packet `pkt` of operation `op`, whose source bytes have been read, is sent. -/
  | send (op pkt : Nat)
  /-- An operation that has arrived from this peer is answered. -/
  | answer (peer : Nat)
  /-- Packet `pkt` of operation `op` counts as acknowledged. -/
  | land (op pkt : Nat)
  /-- A request of the host on the device-memory window is answered (R46). -/
  | window
  deriving DecidableEq, Repr

/-- R46, R89: bytes of a packet that the network engine reads or writes, or of a request of the host on the device-memory
window, each aligned eight-byte part at a point of its own. -/
structure NetMove where
  /-- Address of the first byte. -/
  addr : Word
  /-- The bytes to write; nothing for a read. -/
  data : Option (List Byte) := none
  /-- The parts that have been read: offset and bytes. -/
  got : List (Nat × List Byte) := []
  /-- The parts still to be performed: offset and bytes. -/
  todo : List (Nat × Nat)
  /-- What follows. -/
  fin : NetEnd
  deriving DecidableEq, Repr

/-- A message the network engine has put on the wire, for the outside world to carry (R89, R90). -/
inductive NetMsg where
  /-- A data packet: destination, operation, packet number, remote address, bytes, delivery mode. -/
  | data (ep : List Word) (op pkt : Nat) (raddr : Word) (bytes : List Byte) (deliv : Nat)
  /-- A read request: destination, operation, packet number, remote address, length, delivery mode. -/
  | read (ep : List Word) (op pkt : Nat) (raddr : Word) (len : Nat) (deliv : Nat)
  /-- An atomic: destination, operation, address, operation code, width, operands, delivery mode. -/
  | atomic (ep : List Word) (op : Nat) (raddr : Word) (aop width : Nat) (opnd0 opnd1 : Word) (deliv : Nat)
  /-- A remote decrement: destination, aperture word, decrement (R90). -/
  | decrement (ep : List Word) (word dec : Nat)
  /-- An acknowledgement with data, to the peer. -/
  | ack (peer : Nat) (bytes : List Byte)
  /-- A refusal (R86). -/
  | nack (peer : Nat)
  deriving DecidableEq, Repr

/-- A Locus table entry (R221). -/
structure LocusEntry where
  /-- v. -/
  v : Word
  /-- Rung. -/
  rung : BitVec 3
  /-- Confidence. -/
  conf : BitVec 2
  /-- Trip count. -/
  trips : Byte
  /-- Recency: the larger, the more recently used. -/
  used : Nat
  deriving DecidableEq, Repr

/-- A stop record (R276): eight words, with what orders it in the dump (R277). -/
structure StopRecord where
  /-- SRC. -/
  src : Nat
  /-- KIND. -/
  kind : Nat
  /-- GID. -/
  gid : Nat
  /-- The eight words. -/
  words : List Word
  deriving DecidableEq, Repr

/-- A halt in progress or complete (R274). -/
structure Halt where
  /-- Cause of the first origin. -/
  cause : BitVec 8
  /-- Nanoseconds when the line was raised. -/
  ns : Nat
  /-- The stop records and snapshot records so far, oldest first. -/
  records : List StopRecord := []
  /-- The snapshot that every halt triggers has been latched (R287). -/
  latched : Bool := false
  /-- Engines that have stopped: 0 the task machine, 1 the network engine. -/
  engines : List Nat := []
  /-- The dump of the halt has been written (R277). -/
  dumped : Bool := false
  deriving DecidableEq, Repr

/-- A debug stop in progress (R277): one dump is due for it once its groups have stopped. -/
structure DebugStop where
  /-- Nanoseconds of the event that began it. -/
  ns : Nat
  /-- A watchpoint began it, rather than a command. -/
  hit : Bool
  /-- The groups whose records are to join it, by key. -/
  groups : List Nat
  /-- The records so far, oldest first. -/
  records : List StopRecord := []
  deriving DecidableEq, Repr

/-- A dump waiting to be written (R277, R278). -/
structure DumpJob where
  /-- EVENT. -/
  event : Nat
  /-- CAUSE. -/
  cause : BitVec 8
  /-- Records, in the order of R277. -/
  records : List StopRecord
  /-- Nanoseconds of the event. -/
  ns : Nat
  deriving DecidableEq, Repr

/-- The unit for which victims were pre-empted, and what is held for it (R105). -/
structure Hold where
  /-- Class whose head is the beneficiary. -/
  cls : Nat
  /-- The beneficiary is a re-admitted team, named by member 0 of its cohort; or else the next unit of `record`. -/
  team : Option Nat
  /-- Record of the beneficiary. -/
  record : Word
  /-- The victims, whose allotments are held. -/
  victims : List Nat
  /-- Core of the place, or member 0's core. -/
  core : Nat
  /-- The place itself: core and allotment of each member, with the use of the reserved set. -/
  place : List (Nat × Allot × Bool) := []
  deriving DecidableEq, Repr

/-- The debug page of a partition (R284), and what the debugger is doing. -/
structure Debug where
  /-- DBG_CTL. -/
  ctl : Word := 0
  /-- DBG_CMD. -/
  cmd : Word := 0
  /-- Dump sequence number (SEQ). -/
  seq : Nat := 0
  /-- REFUSED. -/
  refused : Bool := false
  /-- DUMP_BASE. -/
  dumpBase : Word := 0
  /-- DUMP_LEN. -/
  dumpLen : Word := 0
  /-- DUMP_STAT. -/
  dumpStat : Word := 0
  /-- SAVE_BASE. -/
  saveBase : Word := 0
  /-- SAVE_SLOTS. -/
  saveSlots : Word := 0
  /-- TRACE_BASE. -/
  traceBase : Word := 0
  /-- TRACE_LEN. -/
  traceLen : Word := 0
  /-- TRACE_PTR, by die. -/
  tracePtr : SMap Word := []
  /-- Nanoseconds of the last event or frame of each die's stream (R288). -/
  traceNs : SMap Nat := []
  /-- Words of each die's stream whose stores wait for a migration, oldest first. -/
  traceWait : SMap (List Word) := []
  /-- WP_ADDR. -/
  wpAddr : SMap Word := []
  /-- WP_CTL. -/
  wpCtl : SMap Word := []
  /-- WP_HIT. -/
  wpHit : Byte := 0
  /-- STOP0, eight words. -/
  stop0 : SMap Word := []
  /-- The debug stops in progress, oldest first (R277). -/
  stops : List DebugStop := []
  /-- Snapshot triggers waiting for their time T (R287). -/
  snaps : List Nat := []
  /-- Dumps waiting to be written, oldest first. -/
  dumps : List DumpJob := []
  deriving DecidableEq, Repr, Inhabited

/-- The partition page (R43). -/
structure Page where
  /-- OWNER. -/
  owner : BitVec 4 := 0
  /-- CMD. -/
  cmd : BitVec 3 := 0
  /-- PART_ERR. -/
  err : Byte := 0
  /-- PT_ROOT. -/
  ptRoot : Word := 0
  /-- PART_CORES, by die. -/
  cores : SMap Word := []
  /-- CAP_MAP. -/
  capMap : Word := 0
  /-- CAP_LEN. -/
  capLen : Word := 0
  /-- WIN_BASE. -/
  winBase : Word := 0
  /-- CQ_BASE. -/
  cqBase : Word := 0
  /-- CQ_CTL. -/
  cqCtl : Word := 0
  /-- CQ_CONS. -/
  cqCons : Word := 0
  /-- CQ_PROD. -/
  cqProd : Word32 := 0
  /-- CQ_WAKE. -/
  cqWake : Word := 0
  /-- IRQ_BIND. -/
  irqBind : SMap Word := []
  deriving DecidableEq, Repr, Inhabited

/-- A partition (R41-R56, R64-R94, R221, R244, R274). -/
structure Partition where
  /-- STATE. -/
  state : PartState := .free
  /-- Registers of its page. -/
  page : Page := {}
  /-- Debug page. -/
  dbg : Debug := {}
  /-- RESV as read at START. -/
  resv : Word := 0
  /-- NETID as read at START. -/
  netid : Word := 0
  /-- PKG_ILV.MODE in effect for it (R18). -/
  ilv : BitVec 1 := 0
  /-- SRAM entries of the ready queues, by class, oldest first (R73). -/
  queues : SMap (List Word) := []
  /-- Re-admit lists, by class, oldest first. -/
  readmit : SMap (List Nat) := []
  /-- Launches accepted and not complete, oldest first. -/
  launches : List Launch := []
  /-- Number given to the next launch. -/
  nextLaunch : Nat := 0
  /-- Aggregator batches. -/
  batches : List Batch := []
  /-- Order given to the next batch. -/
  nextBatch : Nat := 0
  /-- Records pushed to each class since START (R74). -/
  fired : SMap Word := []
  /-- Overflow records of each class, oldest first (R73). -/
  overflow : SMap (List Word) := []
  /-- Classes whose block software has written in RUN, so that their overflow order is open (R74). -/
  disorder : BitVec 8 := 0
  /-- Successor decrements issued and not performed, in the order of issue (R79, R85). -/
  work : List Work := []
  /-- Network engine's queue of record addresses, at most 1,024. -/
  netQ : List Word := []
  /-- Network operations in flight. -/
  netOps : List NetOp := []
  /-- MODEL: transfers of the network engine some of whose parts are still to be performed, oldest first (R89). -/
  netMoves : List NetMove := []
  /-- MODEL: requests of the host on its device-memory window some of whose parts are still to be performed, oldest first
  (R46). -/
  winMoves : List NetMove := []
  /-- Locus table, key set * 4 + way. -/
  locus : SMap LocusEntry := []
  /-- Recency given to the next use. -/
  locusClock : Nat := 1
  /-- Holder of the serial token: group key (R244). -/
  serialHolder : Option Nat := none
  /-- Requests for the token, oldest first. -/
  serialQ : List Nat := []
  /-- Rotating pointer of the token, over requesters 0-255. -/
  serialPtr : Nat := 0
  /-- Groups whose SCALL found the ring full, in the order they reached the I/O die (R54). -/
  calls : List Nat := []
  /-- Nanoseconds at the last read that found the ring full. -/
  callNs : Nat := 0
  /-- Rotating die priority for claims (R95). -/
  diePrio : Nat := 0
  /-- Places held for beneficiaries. -/
  holds : List Hold := []
  /-- Order given to the next pre-emption. -/
  nextPreempt : Nat := 0
  /-- The raised halt line. -/
  halt : Option Halt := none
  deriving DecidableEq, Repr, Inhabited

/-! ## The package -/

/-- Bring-up state of a die (R40). -/
structure Bist where
  /-- Cores of the die that have finished. -/
  finished : List Nat := []
  /-- OVF. -/
  ovf : Bool := false
  /-- ROWS. -/
  rows : Nat := 0
  /-- PASS as it stood when DONE was set: no fenced core, no link without modules. -/
  pass : Bool := false
  deriving DecidableEq, Repr, Inhabited

/-- Boost slots of a die (R31, R34). -/
structure BoostDie where
  /-- SLOTS in effect. -/
  slots : Nat := 8
  /-- SLOTS as software last wrote it. -/
  written : Nat := 8
  /-- Last cluster granted. -/
  last : Nat := 15
  /-- Nanoseconds since the last 10 us boundary. -/
  since : Nat := 0
  deriving DecidableEq, Repr, Inhabited

/-- An entry of a function's MSI-X table (R42, R52). -/
structure MsixEntry where
  /-- Message address. -/
  addr : Word := 0
  /-- Message data. -/
  data : Word32 := 0
  /-- Vector masked. -/
  masked : Bool := true
  /-- Pending bit. -/
  pending : Bool := false
  deriving DecidableEq, Repr, Inhabited

/-- An SPDM answer (R38). -/
inductive SpdmAnswer where
  /-- Nothing yet. -/
  | none
  /-- VERSION: the versions supported, as major * 16 + minor. -/
  | version (vs : List Nat)
  /-- CAPABILITIES: certificates, challenge, signed measurements, no sessions. -/
  | capabilities (cert chal meas sessions : Bool)
  /-- ALGORITHMS: the base hash and the base signature in use. -/
  | algorithms (sha384 ecdsaP384 : Bool)
  /-- DIGESTS of the chain in slot 0. -/
  | digests (d : List (BitVec 384))
  /-- CERTIFICATE: a portion of the chain and the length left. -/
  | certificate (portion : List Byte) (left : Nat)
  /-- CHALLENGE_AUTH: chain hash, measurement summary and signature. -/
  | challengeAuth (chain summary : BitVec 384) (sig : BitVec 768)
  /-- MEASUREMENTS: index and hash of each block, and the signature asked for. -/
  | measurements (blocks : List (Nat × BitVec 384)) (sig : Option (BitVec 768))
  /-- ERROR: the request is not accepted now. -/
  | error
  deriving DecidableEq, Repr

/-- R58, R62: a line that the host agent holds. -/
structure HostLine where
  /-- Written since the agent took it, so that its data is lost with the link. -/
  dirty : Bool
  /-- Partitions that have accessed it. -/
  parts : List Nat
  deriving DecidableEq, Repr

/-- R59, R63: a posted write that has left its agent and has not reached the host: bytes at a location, or an interrupt
message. -/
structure Posted where
  /-- Location of the first byte. -/
  loc : Nat := 0
  /-- Bytes. -/
  bytes : List Byte := []
  /-- The group and the number of the store, for a store with Relaxed Ordering. -/
  store : Option (Nat × Nat) := none
  /-- A store that has been sent on the link: the number that its group was to give next (R59). -/
  sent : Option Nat := none
  /-- Function and vector of an interrupt. -/
  irq : Option (Nat × Nat) := none
  deriving DecidableEq, Repr

/-- R20: a migration in progress. -/
structure Migration where
  /-- Partition. -/
  part : Nat
  /-- Address of the first of the unit's sixteen entries. -/
  ptes : Nat
  /-- Physical address of the claimed frame. -/
  frame : Nat
  deriving DecidableEq, Repr

/-- The package (R11-R40, R58, R62). -/
structure Package where
  /-- Modules up: 0-3 edges 0-1, 1-3, 3-2, 2-0; 4-7 I/O links 0-3 (R15). -/
  links : SMap Nat := []
  /-- The links have been trained since reset. -/
  trained : Bool := false
  /-- Replayed flits since FLIT_ERR was last read. -/
  flits : Nat := 0
  /-- PKG_ILV.MODE. -/
  ilv : BitVec 1 := 0
  /-- MIG_POOL. -/
  migPool : Word := 0
  /-- MIG_MAP. -/
  migMap : Word := 0
  /-- MIG_CNT. -/
  migCnt : Word := 0
  /-- Migrations in progress. -/
  moves : List Migration := []
  /-- MIG_STATS.STARVE. -/
  migStarve : Word32 := 0
  /-- MIG_STATS.SKIP. -/
  migSkip : Word32 := 0
  /-- TIER_SIZE, GiB by window. -/
  tier : SMap Nat := []
  /-- NET_MODE.PORTS. -/
  netPorts : BitVec 1 := 0
  /-- NET_MODE.ACTIVE. -/
  netActive : BitVec 1 := 0
  /-- Nanosecond counter. -/
  ns : Word := 0
  /-- Slew outstanding, in ns. -/
  slew : Nat := 0
  /-- NS_RATE.PPB. -/
  ppb : Word32 := 0
  /-- Fraction of a nanosecond, in units of 1 / (256 * 10^9). -/
  rateFrac : Int := 0
  /-- Fraction of the slew already absorbed, in units of 1 / 2000 ns. -/
  slewFrac : Nat := 0
  /-- Boost slots, by die. -/
  boost : SMap BoostDie := []
  /-- BIST progress, by die. -/
  bist : SMap Bist := []
  /-- CORE_FENCE, by die. -/
  fence : SMap Word := []
  /-- REPAIR. -/
  repair : SMap Word32 := []
  /-- The 64-bit fuse field: the lowest security version number accepted (R36). -/
  fuse : Word := 0
  /-- In recovery (R36). -/
  recovery : Bool := false
  /-- Signature indices of the identity key used so far (R37). -/
  hssIndex : Nat := 0
  /-- The identity key certified this boot's alias key (R37). -/
  attest : Bool := true
  /-- Boots so far, which number the alias keys (R37). -/
  boots : Nat := 0
  /-- The last SPDM answer. -/
  spdm : SpdmAnswer := .none
  /-- Steps of the SPDM negotiation done: 1 version, 2 capabilities, 3 algorithms. -/
  spdmStage : Nat := 0
  /-- The host link is up. -/
  hostUp : Bool := true
  /-- Lines the host agent holds, by line number. -/
  hostHeld : SMap HostLine := []
  /-- Lines marked poisoned, by line number, with the partitions that touched them (R62). -/
  poison : SMap (List Nat) := []
  /-- MSI-X entries, key function * 256 + vector. -/
  msix : SMap MsixEntry := []
  /-- Vectors raised, newest first: function and vector. -/
  irqs : List (Nat × Nat) := []
  /-- Network messages sent, newest first. -/
  sent : List NetMsg := []
  /-- What the last host read returned. -/
  hostReply : List Byte := []
  /-- Posted writes on their way to the host, oldest first (R59, R63). -/
  posted : List Posted := []
  deriving DecidableEq, Repr, Inhabited

/-! ## A lane memory word that is under way -/

/-- What kind of accesses a lane memory word makes. -/
structure MemKind where
  /-- It counts in GL and SP, rather than in ST. -/
  loads : Bool
  /-- It writes, or asks to own, what it names. -/
  write : Bool
  /-- It reads what it names. -/
  reads : Bool
  /-- An atomic that the non-coherent window does not offer (R60). -/
  nc : Bool := false
  deriving DecidableEq, Repr, Inhabited

/-- What the checks of a word's lanes found. -/
structure LanePlan where
  /-- The word's accesses. -/
  kind : MemKind := { loads := true, write := false, reads := true }
  /-- Lanes whose accesses to device memory are transactional (R232). -/
  tx : Word32 := 0
  /-- Helper lanes (R119). -/
  helpers : Word32 := 0
  /-- Lanes whose accesses may be performed, ascending, with their addresses and targets. -/
  ok : List (Nat × List (Word × Target)) := []
  /-- Helper lanes whose load fails and delivers 0 (R120), each with whether its addresses name windows (R137). -/
  zero : List (Nat × List Bool) := []
  /-- Failing lanes, with cause and address. -/
  fails : List (Nat × BitVec 8 × Word) := []
  /-- Lanes whose transaction aborts with cause FAULT, with DETAIL. -/
  aborts : List (Nat × Nat) := []
  /-- Some lane's access waits for its page (R21). -/
  busy : Bool := false
  deriving DecidableEq, Repr, Inhabited

/-- One access of a lane memory word: which of the lane's accesses, its address and its target. -/
structure LaneItem where
  /-- Lane. -/
  lane : Nat
  /-- 0, or 1 for the tag byte of LDT and STT. -/
  idx : Nat
  /-- Generic address. -/
  addr : Word
  /-- Target. -/
  target : Target
  /-- It is transactional (R232). -/
  tx : Bool := false
  /-- It is a helper lane's, which no watchpoint matches (R285). -/
  helper : Bool := false
  deriving DecidableEq, Repr

/-- What the accesses of a lane memory word have given so far. -/
structure LaneRun where
  /-- Values read: lane, which access, value. -/
  got : List (Nat × Nat × Nat) := []
  /-- Accesses to the non-coherent window that the host performs later (R188). -/
  late : List LateAccess := []
  /-- Lanes whose transaction this word has aborted (R233). -/
  lost : Word32 := 0
  /-- A store that is divided between points: the number of its flight (R59). -/
  seq : Option Nat := none
  deriving DecidableEq, Repr, Inhabited

/-- How far what is under way has come. -/
inductive MidBody where
  /-- A lane memory word (R171, R177, R181): what its checks found, the accesses still to be performed, and what the others
  have given. -/
  | lanes (plan : LanePlan) (items : List LaneItem) (run : LaneRun)
  /-- An outermost XEND (R240, R241): the lanes still to be committed, M so far, and whether the first of them has its
  granules locked. -/
  | commit (todo : List Nat) (m : Word32) (locked : Bool)
  /-- An engine command whose descriptor is read (R345): the words read so far. -/
  | desc (got : List Word)
  /-- The commit of the group's team's region, whose lines are locked (R186, R217). -/
  | region
  deriving DecidableEq, Repr

/-- MODEL: what is under way when accesses of other agents fall between two points of one instruction or commit. -/
structure MidWord where
  /-- The group. -/
  group : Nat
  /-- The control stream's, rather than the lane stream's. -/
  control : Bool := false
  /-- The word. -/
  word : LaneWord := 0
  /-- How far it has come. -/
  body : MidBody
  /-- Its accesses so far, newest first. -/
  noted : List Access := []
  /-- Data watchpoints that they have hit, which the part has acted on (R430). -/
  hit : Byte := 0
  /-- It issued after the halt line or a stop broadcast had reached its group (R276). -/
  late : Bool := false
  deriving DecidableEq, Repr

/-- The PCIe AtomicOps that the part completes (R24). -/
inductive HostOp where
  /-- FetchAdd, 32 and 64 bits. -/
  | fetchAdd
  /-- Swap, 32 and 64 bits. -/
  | swap
  /-- CAS, 32, 64 and 128 bits. -/
  | cas
  deriving DecidableEq, Repr

/-! ## The whole machine -/

/-- What the machine does next. -/
inductive Action where
  /-- A machine event of the opcode table. -/
  | event (i : Instr)
  /-- The next control word of a group. -/
  | control (group : Nat)
  /-- The next lane word of a group. -/
  | lane (group : Nat)
  /-- The next lane words of two groups issue as a pair, the winner's first (R102). -/
  | pair (winner partner : Nat)
  /-- Both streams of a group issue in one clock (R143). -/
  | dual (group : Nat)
  /-- One lane of an in-flight load, or its control registers as lane 32, lands early (R139). -/
  | land (group : Nat) (counter : Nat) (index : Nat) (lane : Nat)
  /-- The next word of a stream issues, or goes on, and performs at most so many of its points (R171, R181, R240, R345). -/
  | part (group : Nat) (control : Bool) (n : Nat)
  /-- One block of an engine command runs (R281). -/
  | block (core : Nat) (matrix : Bool) (id : Nat)
  /-- One block of an engine command runs, and its writes are performed later, part by part (R182). -/
  | hold (core : Nat) (matrix : Bool) (id : Nat)
  /-- An engine command reads one aligned eight-byte part of its sources ahead of the block that uses it (R182). -/
  | early (core : Nat) (matrix : Bool) (id : Nat) (addr : Word)
  /-- A part of a write that an engine command still has to perform is performed; under `past` in the place that an earlier
  write of the issuing group to the same bytes leaves it, so that nothing remains of it (R182). -/
  | write (core : Nat) (matrix : Bool) (id : Nat) (i : Nat) (past : Bool)
  /-- A machine event happens, and what it makes the network engine or the device-memory window read and write is performed
  later, part by part (R46, R89). -/
  | slow (i : Instr)
  /-- One part of a transfer of a partition's network engine is performed: the transfer and the part (R89). -/
  | move (part : Nat) (i : Nat) (j : Nat)
  /-- One part of a request on a partition's device-memory window is performed: the request and the part (R46). -/
  | window (part : Nat) (i : Nat) (j : Nat)
  /-- A 32-bit word of a team's code is fetched ahead of its issue (R316). -/
  | ahead (team : Nat) (va : Word)
  /-- One clock of a port: the groups' streams that the part's timing keeps from being ready, with the reason; the
  highest-ranked of the others issue (R101, R102). -/
  | port (core port : Nat) (waits : List (Nat × Bool × Wait))
  /-- A stream's next memory instruction finds no translation at hand (R163). -/
  | miss (group : Nat) (control : Bool)
  /-- The commit of a team's oldest region locks its lines (R186, R217). -/
  | lock (team : Nat)
  /-- A posted write reaches the host (R59, R63). -/
  | deliver (i : Nat)
  /-- The request of one access of an instruction in flight to the non-coherent window reaches the host (R188). -/
  | fetch (group : Nat) (counter : Nat) (index : Nat) (j : Nat)
  /-- An uncorrectable error is found in the line of the counter at a partition's virtual address (R70). -/
  | eccCounter (part : Nat) (va : Word)
  /-- The host writes its own memory (R189). -/
  | hostWrite (a : Nat) (bytes : List Byte)
  /-- The host compares and swaps a value of its own memory (R189). -/
  | hostSwap (a n old new : Nat)
  /-- A PCIe AtomicOp of the host on the device-memory window (R24): function, offset, width in bytes, operation and
  operands. -/
  | hostAtomic (fn off n : Nat) (op : HostOp) (x y : Nat)
  /-- The host writes host-managed device memory over CXL.mem (R24). -/
  | hdmWrite (pa : Nat) (bytes : List Byte)
  /-- The host reads host-managed device memory over CXL.mem (R24). -/
  | hdmRead (pa n : Nat)
  deriving DecidableEq, Repr

/-- One turn of the agenda: time passes, then something happens. -/
structure Turn where
  /-- Nanoseconds that pass first. -/
  dt : Nat
  /-- What happens. -/
  act : Action
  /-- What happens in the same cycle, in the order of the arbiters (R95, R99, R174, R244). -/
  also : List Action := []
  deriving DecidableEq, Repr

/-- The state of the machine. -/
structure State where
  /-- Package, links, clocks of the always-on domain, bring-up. -/
  pkg : Package := {}
  /-- Partitions 0-7. -/
  parts : SMap Partition := []
  /-- Clusters, die * 16 + cluster. -/
  clusters : SMap Cluster := []
  /-- Cores, die * 64 + cluster * 4 + core. -/
  cores : SMap Core := []
  /-- Teams, by key. -/
  teams : SMap Team := []
  /-- Key given to the next team. -/
  nextTeam : Nat := 0
  /-- Groups, key team * 32 + index. -/
  groups : SMap Group := []
  /-- Number given to the next engine command. -/
  nextCmd : Nat := 0
  /-- Rotating pointers of the home slices, key die * 32 + slice (R174). -/
  slicePtr : SMap Nat := []
  /-- Memory: device bytes by physical address, then host memory, then each team's scratchpad (see `Memory`). -/
  mem : List Host.Cell := []
  /-- MODEL: the writes of the step in progress, newest first; `step` moves them into `mem`. -/
  stores : List Host.Cell := []
  /-- MODEL: the group whose instruction is executed. -/
  actor : Nat := 0
  /-- MODEL: counter behind the free values. -/
  free : Nat := 0
  /-- MODEL: nanoseconds of physical time since power-on, which no rate, step or slew changes. -/
  phys : Nat := 0
  /-- MODEL: what happens next, oldest first. -/
  agenda : List Turn := []
  /-- MODEL: points of an instruction that the turn performs; nothing for all of them. -/
  limit : Option Nat := none
  /-- MODEL: what is under way, one entry for each stream at most. -/
  mid : List MidWord := []
  /-- MODEL: accesses made by the instruction in progress, newest first. -/
  accesses : List Access := []
  /-- MODEL: data watchpoints that its earlier points have hit. -/
  hit : Byte := 0
  /-- MODEL: 64 KiB units whose migration this step has refused for want of a frame (R21). -/
  starved : List Nat := []
  /-- MODEL: writes of this step that the task machine itself has made to class blocks, each by the number of writes before
  it (R74). -/
  own : List Nat := []
  /-- MODEL: writes of this step that another requester than the action's own makes, each by the number of writes before it,
  with the requester (R174). -/
  tags : List (Nat × Nat) := []
  /-- MODEL: the memory instruction in progress has asked for the translation of a page (R163). -/
  paged : Bool := false
  /-- MODEL: page-table entries in which the page walkers have set bits in this step (R160, R174). -/
  walked : List Nat := []
  deriving DecidableEq, Repr, Inhabited

/-- R39, R43: the machine right after reset.  Every field has the value its declaration gives: all registers at the
reset values of their tables, every partition FREE, nothing resident, nothing listed in memory. -/
def State.reset : State := {}

/-- Why a step stops without a next state. -/
inductive Fault where
  /-- Raised by a machine event that cannot happen in the state it is asked to happen in (a load completes in a
  group with none in flight, a commit without a closed region).  Safe: nothing is claimed of such a step. -/
  | notEnabled
  deriving DecidableEq, Repr

/-- Why an instruction has no meaning here. -/
inductive Refusal where
  /-- Raised by an arm of `exec` that has no meaning yet.  Safe. -/
  | notModelled (mnemonic : String)
  deriving DecidableEq, Repr

end Sys2Proof.Machine
end

