-- ==== Sys2Proof/Machine/Memory.lean ====
section
/-! DEFINITION. Sys2Proof/Machine/Memory.lean: the bytes of the machine.  One list of (location, byte) pairs holds all
of memory.  Locations below 2^52 are device physical addresses (R16); 2^64 + h is byte h of host memory (R53, R57); 2^65 +
2^24 * team + offset is a byte of a team's scratchpad, which no other allocation can reach (R149).  A device or host
byte that is not listed reads 0 (log 1); a scratchpad byte that is not listed reads as a free value (R91). -/

namespace Sys2Proof.Machine

/-- First location of host memory. -/
def hostBase : Nat := 2 ^ 64

/-- First location of the scratchpads. -/
def spadBase : Nat := 2 ^ 65

/-- Location of a byte of host memory, by its address of 64 bits on the host bus. -/
def hostLoc (a : Nat) : Nat := hostBase + a % hostBase

/-- Location of a byte of a team's scratchpad. -/
def spadLoc (team off : Nat) : Nat := spadBase + 2 ^ 24 * team + off

/-- What a location that is not listed reads as. -/
def Memory.unlisted (loc : Nat) : Byte := if loc < spadBase then 0 else Config.freeScratch loc

/-- The byte at a location. -/
def Memory.get (m : List Host.Cell) (loc : Nat) : Byte :=
  match SMap.find? m loc with
  | some b => b
  | none => Memory.unlisted loc

/-- Write a byte; a device or host byte of 0 is not listed. -/
def Memory.set (m : List Host.Cell) (loc : Nat) (b : Byte) : List Host.Cell :=
  if loc < spadBase ∧ b = 0 then SMap.del m loc else SMap.put m loc b

/-- The canonical form: locations strictly rising, and no device or host byte listed as 0. -/
def Memory.wf (m : List Host.Cell) : Bool :=
  SMap.rising 0 m && m.all (fun c => decide (spadBase ≤ c.1) || c.2 != 0)

/-- Perform writes on memory; the newest stands first in the list. -/
def Memory.flush (m : List Host.Cell) : List Host.Cell → List Host.Cell
  | [] => m
  | (loc, b) :: older => Memory.set (Memory.flush m older) loc b

/-- Bytes at successive locations, as cells. -/
def cellsAt (loc : Nat) : List Byte → List Host.Cell
  | [] => []
  | b :: bs => (loc, b) :: cellsAt (loc + 1) bs

/-- The committed byte at a location, the step's own writes included. -/
def State.byteAt (s : State) (loc : Nat) : Byte :=
  match SMap.find? s.stores loc with
  | some b => b
  | none => Memory.get s.mem loc

/-- Write one byte. -/
def State.setByte (s : State) (loc : Nat) (b : Byte) : State := { s with stores := (loc, b) :: s.stores }

/-- `n` committed bytes. -/
def State.bytesAt (s : State) (loc : Nat) : Nat → List Byte
  | 0 => []
  | n + 1 => s.byteAt loc :: s.bytesAt (loc + 1) n

/-- Write bytes at successive locations. -/
def State.setBytes (s : State) (loc : Nat) (bs : List Byte) : State :=
  { s with stores := cellsAt loc bs ++ s.stores }

/-- A committed little-endian word of eight bytes. -/
def State.wordAt (s : State) (loc : Nat) : Word := bytesWord (s.bytesAt loc 8)

/-- Write a word of eight bytes. -/
def State.setWord (s : State) (loc : Nat) (w : Word) : State := s.setBytes loc (wordBytes 8 w)

/-! ## Watches (R110) -/

/-- R110: a write at `loc` wakes this group if it watches the 128-byte line. -/
def Group.wakeAt (g : Group) (loc : Nat) : Group :=
  match g.park with
  | some (.waitm d a n w _ since) =>
    if w / 128 = loc / 128 then { g with park := some (.waitm d a n w true since) } else g
  | _ => g

/-- R110: wake the WAITM groups that watch the line of a written location; a system address wakes none. -/
def State.wakeWatchers (s : State) (loc : Nat) : State :=
  if hostBase ≤ loc ∧ loc < spadBase then s
  else { s with groups := s.groups.map fun x => (x.1, x.2.wakeAt loc) }

/-- R110, R202, R203: a region of `team` has written its version of the line of `loc`: a scratchpad line is written in
place, and a version in device memory is seen by its own team only. -/
def State.wakeVersion (s : State) (team loc : Nat) : State :=
  if hostBase ≤ loc ∧ loc < spadBase then s
  else { s with groups := s.groups.map fun x =>
      (x.1, if spadBase ≤ loc || x.2.team == team then x.2.wakeAt loc else x.2) }

/-- A committed write of bytes at a location: memory, and the watches on its line. -/
def State.commitBytes (s : State) (loc : Nat) (bs : List Byte) : State :=
  (s.setBytes loc bs).wakeWatchers loc

/-! ## Views of a team with regions (R202, R203, R216) -/

/-- Regions whose bytes the team sees, newest first. -/
def Team.overlays (t : Team) : List (List Host.Cell) :=
  (t.openRegion.toList ++ t.pending.toList).map (·.writes)

/-- The newest listed value of `loc` in the overlays. -/
def findOverlay : List (List Host.Cell) → Nat → Option Byte
  | [], _ => none
  | w :: ws, loc => (SMap.find? w loc).orElse (fun _ => findOverlay ws loc)

/-- R202, R203: the byte as the team itself sees it. -/
def State.viewByte (s : State) (team loc : Nat) : Byte :=
  (findOverlay (s.teams.get {} team).overlays loc).getD (s.byteAt loc)

/-- Bytes as the team sees them. -/
def State.viewBytes (s : State) (team loc : Nat) : Nat → List Byte
  | 0 => []
  | n + 1 => s.viewByte team loc :: s.viewBytes team (loc + 1) n

/-- Add bytes to an overlay; a location stands in it once. -/
def overlayWrite (w : List Host.Cell) : Nat → List Byte → List Host.Cell
  | _, [] => w
  | loc, b :: bs => (loc, b) :: SMap.del (overlayWrite w (loc + 1) bs) loc

/-- Lines of 128 bytes that an overlay touches in the locations that `p` selects. -/
def overlayLines (w : List Host.Cell) (p : Nat → Bool) : List Nat :=
  ((w.map (·.1)).filter p |>.map (· / 128)).eraseDups

/-- Some other team holds an uncommitted version of the scratchpad line of `loc` (R202). -/
def State.spadHeld (s : State) (team loc : Nat) : Bool :=
  s.teams.any fun (k, t) => k != team &&
    (t.openRegion.toList ++ t.pending.toList).any fun r => r.writes.any fun c => c.1 / 128 == loc / 128

/-- Some team holds an uncommitted version within 64 KiB of `pa` (R203). -/
def State.unitHeld (s : State) (pa : Nat) : Bool :=
  s.teams.any fun (_, t) =>
    (t.openRegion.toList ++ t.pending.toList).any fun r => r.writes.any fun c => c.1 / 65536 == pa / 65536

end Sys2Proof.Machine
end

