-- ==== Sys2Proof/Machine/Translate.lean ====
section
/-! DEFINITION. Sys2Proof/Machine/Translate.lean: generic addresses, page tables and the address checks
(R16, R57, R62, R148-R166). -/

namespace Sys2Proof.Machine

/-- R158: what an access needs of its page. -/
inductive Need where
  /-- V only. -/
  | read
  /-- W. -/
  | write
  /-- X. -/
  | exec
  deriving DecidableEq, Repr

/-- The location of the target's first byte. -/
def Target.loc : Target → Nat
  | .dev pa => pa
  | .host a _ => hostLoc a
  | .spad team off => spadLoc team off

/-- A system address (R57). -/
def Target.isSystem : Target → Bool
  | .host _ _ => true
  | _ => false

/-- A window address. -/
def Target.isWindow : Target → Bool
  | .spad _ _ => true
  | _ => false

/-- The non-coherent window (R57). -/
def Target.isNonCoherent : Target → Bool
  | .host _ c => !c
  | _ => false

/-- R16, R434: populated HBM. -/
def inHbm (pa : Nat) : Bool := pa < 0xB2D05E0000

/-- R16, R434: the populated part of the second tier. -/
def Package.inTier (p : Package) (pa : Nat) : Bool :=
  (List.range 8).any (fun n => 0x1000000000000 + n * 0x10000000000 ≤ pa &&
    pa < 0x1000000000000 + n * 0x10000000000 + p.tier.get 0 n * 2 ^ 30) ||
  (List.range 2).any (fun n => 0x2000000000000 + n * 0x40000000000 ≤ pa &&
    pa < 0x2000000000000 + n * 0x40000000000 + p.tier.get 0 (8 + n) * 2 ^ 30)

/-- R16: system addresses. -/
def inSystem (pa : Nat) : Bool := 2 ^ 51 ≤ pa && pa < 2 ^ 52

/-- R57: the target of a physical address. -/
def targetOf (pa : Nat) : Target :=
  if inSystem pa then .host (pa % 2 ^ 50) (pa / 2 ^ 50 % 2 == 0) else .dev pa

/-- The result of a walk. -/
inductive Walk where
  /-- The physical address, the leaf's bits, and the entries whose A or D bit the walker sets (R160). -/
  | ok (pa : Nat) (leaf : Word) (marks : List (Nat × Word))
  /-- A failing check of R165. -/
  | fail (cause : BitVec 8)
  deriving DecidableEq, Repr

/-- R156 [51:12] as a base address. -/
def pteBase (e : Word) : Nat := field e 12 40 * 4096

/-- R160: the entry with A set, and D set for a write to a leaf. -/
def pteMark (e : Word) (d : Bool) : Word := e ||| (if d then 0x60 else 0x20)

/-- R160: the marks of one used entry. -/
def markOf (a : Nat) (e : Word) (d : Bool) : List (Nat × Word) :=
  if pteMark e d = e then [] else [(a, pteMark e d)]

/-- R159: the level-1 entry the TLB uses for index `i` of the table at `base`, with its index in the block. -/
def State.contigPick (s : State) (base i : Nat) (va : Nat) : Nat :=
  let b := i / 16 * 16
  let c := (List.range 16).filter fun j => bit (s.wordAt (base + 8 * (b + j))) 0 && bit (s.wordAt (base + 8 * (b + j))) 4
  match c with
  | [] => i
  | _ => (c.map (b + ·)).getD (Config.contigEntry s.free va % 17) i

/-- R157: a leaf's own format at level `n`, its frame's base and TIER. -/
def Package.leafFormatBad (p : Package) (n : Nat) (e : Word) : Bool :=
  (n != 1 && bit e 4) || (n == 2 && field e 12 9 != 0) || (n == 3 && field e 12 18 != 0) ||
  (let f := pteBase e
   if inHbm f || inSystem f then bit e 7 else if p.inTier f then !bit e 7 else false)

/-- R157: a table entry's format. -/
def Package.tableFormatBad (p : Package) (e : Word) : Bool :=
  bit e 9 || bit e 8 || bit e 7 || bit e 6 || bit e 4 || !(inHbm (pteBase e) || p.inTier (pteBase e))

/-- R155: the walk of `va` from the table at `base`, level `n`, with the permissions and marks so far. -/
def State.walkFrom (s : State) (need : Need) (va : Nat) :
    Nat → Nat → Bool → Bool → List (Nat × Word) → Walk
  | 0, _, _, _, _ => .fail causePageInvalid
  | n + 1, base, w, x, marks =>
    let i := va / 2 ^ (12 + 9 * n) % 512
    let i' := if n = 0 then s.contigPick base i va else i
    let a := base + 8 * i'
    let e := s.wordAt a
    let w := w && bit e 2
    let x := x && bit e 3
    if !bit e 0 then .fail causePageInvalid
    else if bit e 1 && n != 2 && n != 1 then .fail causePageFormat
    else if n = 0 || bit e 1 then
      if s.pkg.leafFormatBad (n + 1) e then .fail causePageFormat
      else if (need == .write && !w) || (need == .exec && !x) then .fail causePageProt
      else
        let pa := (pteBase e + (i - i') * 4096 - (i' - i) * 4096) + va % 2 ^ (12 + 9 * n)
        if !(inHbm pa || s.pkg.inTier pa || inSystem pa) then .fail causePageRange
        else .ok pa e (markOf a e (need == .write) ++ marks)
    else if s.pkg.tableFormatBad e then .fail causePageFormat
    else s.walkFrom need va n (pteBase e) w x (markOf a e false ++ marks)

/-- The address of a partition's level-5 table (R43, R155). -/
def Partition.root (p : Partition) : Nat := field p.page.ptRoot 12 40 * 4096

/-- The walk of a partition virtual address (R155); a level-5 table outside HBM and the second tier is PAGE_RANGE
(R16). -/
def State.walk (s : State) (part va : Nat) (need : Need) : Walk :=
  let root := (s.parts.get {} part).root
  if !(inHbm root || s.pkg.inTier root) then .fail causePageRange else s.walkFrom need va 5 root true true []

/-- What an address check answers. -/
inductive Check where
  /-- Every check passes: the target, the walker's marks, what SKIP gains, and, where no frame is free for it, 1 more than
  the number of the 64 KiB unit that was to be migrated (R19, R20). -/
  | ok (t : Target) (marks : List (Nat × Word)) (skip starve : Nat)
  /-- The first failing check (R165). -/
  | fault (cause : BitVec 8)
  /-- The page is busy, or its unit is to be migrated first: the access waits (R20, R21). -/
  | busy
  deriving DecidableEq, Repr

/-- R20 step 2: the lowest clear bit of the frame map, by fuel. -/
def State.freeFrame (s : State) : Nat → Nat → Option Nat
  | 0, _ => none
  | fuel + 1, i =>
    if (s.byteAt (field s.pkg.migMap 3 49 * 8 + i / 8)).getLsbD (i % 8) then s.freeFrame fuel (i + 1) else some i

/-- The free frame the migration engine would claim. -/
def State.nextFrame (s : State) : Option Nat := s.freeFrame (field s.pkg.migCnt 0 24) 0

/-- R19: what a completed walk means for a page that asks to be migrated. -/
def State.migrateCheck (s : State) (pa : Nat) (leaf : Word) (marks : List (Nat × Word)) (level1 : Bool) : Check :=
  if !(bit leaf 7 && bit leaf 8) then .ok (targetOf pa) marks 0 0
  else if !(level1 && bit leaf 4) then .ok (targetOf pa) marks 1 0
  else if field s.pkg.migCnt 0 24 = 0 || s.unitHeld pa then .ok (targetOf pa) marks 1 0
  else if s.nextFrame.isNone then .ok (targetOf pa) marks 0 (pa / 65536 + 1)
  else .busy

/-- The host agent's line of a host address. -/
def hostLine (a : Nat) : Nat := a / 128

/-- R165 step 7: poisoned or unreachable host lines. -/
def Package.hostCheck (p : Package) (a : Nat) (coherent : Bool) : Option (BitVec 8) :=
  if coherent then
    if (SMap.find? p.poison (hostLine a)).isSome then some causeLinkPoison
    else if !p.hostUp && (SMap.find? p.hostHeld (hostLine a)).isNone then some causeLinkPoison
    else none
  else if !p.hostUp then some causeHostAbort else none

/-- R62: a partition whose access at a virtual address meets a poisoned line has touched it. -/
def State.touchPoison (s : State) (part va : Nat) : State :=
  match s.walk part va .read with
  | .ok pa _ _ =>
    match targetOf pa with
    | .host a true =>
      match SMap.find? s.pkg.poison (hostLine a) with
      | some ps =>
        { s with pkg := { s.pkg with poison := s.pkg.poison.put (hostLine a) (if ps.contains part then ps else part :: ps) } }
      | none => s
    | _ => s
  | .fail _ => s

/-- R62: the same for an access that has failed for this cause. -/
def State.touchFail (s : State) (part : Nat) (cause : BitVec 8) (va : Nat) : State :=
  if cause = causeLinkPoison then s.touchPoison part va else s

/-- R165 steps 3-9 for a partition virtual address.  `nc` says that the access is an atomic that the non-coherent
window does not offer. -/
def State.checkVa (s : State) (part va : Nat) (need : Need) (nc : Bool) : Check :=
  match s.walk part va need with
  | .fail c => .fault c
  | .ok pa leaf marks =>
    match targetOf pa with
    | .host a coherent =>
      match s.pkg.hostCheck a coherent with
      | some c => .fault c
      | none => if !coherent && nc then .fault causeNcAtomic else if bit leaf 9 then .busy
        else .ok (.host a coherent) marks 0 0
    | _ => if bit leaf 9 then .busy else s.migrateCheck pa leaf marks (!bit leaf 1)

/-- R149: the team whose allocation a cluster-window address of core `c` reaches, if any. -/
def State.windowTeam (s : State) (team c : Nat) : Option Nat :=
  let t := s.teams.get {} team
  if t.core % 4 = c then some team
  else if t.type.cohort = 0 then none
  else (List.find? (fun (x : Nat × Team) => x.2.part == t.part && x.2.cohort == t.cohort &&
      x.2.core == t.core / 4 * 4 + c && x.2.phase != .absent && x.2.phase != .saved)
      s.teams).map (·.1)

/-- R148, R149: the window a generic address names: `none` outside the windows, `some none` for a bad one. -/
def State.window (s : State) (team : Nat) (addr : Word) : Option (Option Target) :=
  let a := addr.toNat
  let off := a % 2 ^ 24
  let inside := fun (k : Nat) => off < (s.teams.get {} k).type.spad * 1024
  if a / 2 ^ 24 = 0x8000000000 then some (if inside team then some (.spad team off) else none)
  else if a / 2 ^ 26 = 0x2040000000 then
    match s.windowTeam team (a / 2 ^ 24 % 4) with
    | some k => some (if inside k then some (.spad k off) else none)
    | none => some none
  else none

/-- R165: the checks of one access of `n` bytes by a team, in their order. -/
def State.check (s : State) (team : Nat) (addr : Word) (n : Nat) (need : Need) (nc : Bool) : Check :=
  match s.window team addr with
  | some none => .fault causeBadWindow
  | some (some t) => if addr.toNat % n != 0 then .fault causeMisaligned else .ok t [] 0 0
  | none =>
    if 2 ^ 57 ≤ addr.toNat then .fault causeBadWindow
    else if addr.toNat % n != 0 then .fault causeMisaligned
    else s.checkVa (s.teams.get {} team).part addr.toNat need nc

/-- R160: the atomic OR of one mark into its entry. -/
def State.applyMark (s : State) (m : Nat × Word) : State :=
  { s.commitBytes m.1 (wordBytes 8 (s.wordAt m.1 ||| m.2)) with walked := m.1 :: s.walked }

/-- R21: this step has not yet refused the migration of the unit `starve` names. -/
def State.newStarve (s : State) (starve : Nat) : Bool := starve != 0 && !s.starved.contains starve

/-- R160, R21, R23: apply what a passed check leaves: the walker's marks and the migration counters, which wrap (log 74).
Accesses that reach one unit at the same time ask for one migration of it. -/
def State.applyMarks (s : State) (marks : List (Nat × Word)) (skip starve : Nat) : State :=
  let s := marks.foldl State.applyMark s
  if skip = 0 && starve = 0 then s
  else
    let new := s.newStarve starve
    { s with
      starved := if new then starve :: s.starved else s.starved
      pkg := { s.pkg with migSkip := s.pkg.migSkip + BitVec.ofNat 32 skip
                          migStarve := s.pkg.migStarve + BitVec.ofNat 32 (b2n new) } }

/-- R58: lines that the host agent's cache of 8 MiB holds. -/
def hostLines : Nat := 65536

/-- R58: the host agent makes room for a line it does not hold; which line leaves a full cache is open (log 75). -/
def State.makeRoom (s : State) (line : Nat) : SMap HostLine :=
  let held := s.pkg.hostHeld
  if (SMap.find? held line).isSome || held.length < hostLines then held
  else SMap.del held (held.keys.getD (Config.choice s.free 60 % held.length) 0)

/-- R58: the host agent holds a coherent line once a device agent of partition `part` has accessed it. -/
def State.holdLine (s : State) (part : Nat) (t : Target) (write : Bool) : State :=
  match t with
  | .host a true =>
    let x := (SMap.find? s.pkg.hostHeld (hostLine a)).getD { dirty := false, parts := [] }
    let x := { dirty := x.dirty || write, parts := if x.parts.contains part then x.parts else part :: x.parts }
    { s with pkg := { s.pkg with hostHeld := (s.makeRoom (hostLine a)).put (hostLine a) x } }
  | _ => s

/-- R163: the acting team's access of `n` bytes at a generic address asks for the translation of its page. -/
def State.askPage (s : State) (team : Nat) (addr : Word) (n : Nat) : State :=
  if (s.window team addr).isNone && decide (addr.toNat < 2 ^ 57) && addr.toNat % n == 0 then { s with paged := true } else s

/-- An access of the task machine, the debug unit or the host window to a partition virtual address: its target and
the state with the walker's marks, or the cause.  A page that waits to be migrated is `none` twice over. -/
def State.agentAccess (s : State) (part va n : Nat) (need : Need) : Except (Option (BitVec 8)) (Nat × Target × State) :=
  if 2 ^ 57 ≤ va then .error (some causeBadWindow)
  else if va % n != 0 then .error (some causeMisaligned)
  else
    match s.checkVa part va need false with
    | .fault c => .error (some c)
    | .busy => .error none
    | .ok t marks skip starve => .ok (t.loc, t, s.applyMarks marks skip starve)

end Sys2Proof.Machine
end

