-- ==== Sys2Proof/Machine/Ops.lean ====
section
/-! DEFINITION. Sys2Proof/Machine/Ops.lean: the named operations that the meanings share: the acting group and its
registers, how an instruction completes or waits, faults and the halt line (R274-R276), the trace streams (R288), lane
aborts (R235), and taking a program trap and returning from one (R143, R273, R343). -/

namespace Sys2Proof.Machine

/-- What a meaning answers. -/
abbrev Res := Host.Outcome State Fault Refusal

/-! ## The acting group, its team and its partition -/

/-- The acting group. -/
def State.g (s : State) : Group := s.groups.get {} s.actor

/-- Replace the acting group. -/
def State.setG (s : State) (g : Group) : State := { s with groups := s.groups.put s.actor g }

/-- A team, by key. -/
def State.team (s : State) (k : Nat) : Team := s.teams.get {} k

/-- A group, by key. -/
def State.group (s : State) (k : Nat) : Group := s.groups.get {} k

/-- A cluster. -/
def State.cluster (s : State) (c : Nat) : Cluster := s.clusters.get {} c

/-- The acting group's team. -/
def State.t (s : State) : Team := s.teams.get {} s.g.team

/-- Replace a team. -/
def State.setTeam (s : State) (k : Nat) (t : Team) : State := { s with teams := s.teams.put k t }

/-- Replace the acting group's team. -/
def State.setT (s : State) (t : Team) : State := s.setTeam s.g.team t

/-- A partition. -/
def State.part (s : State) (p : Nat) : Partition := s.parts.get {} p

/-- Replace a partition. -/
def State.setPart (s : State) (p : Nat) (x : Partition) : State := { s with parts := s.parts.put p x }

/-- The acting group's partition. -/
def State.p (s : State) : Partition := s.part s.g.part

/-- Replace the acting group's partition. -/
def State.setP (s : State) (x : Partition) : State := s.setPart s.g.part x

/-- A core. -/
def State.core (s : State) (c : Nat) : Core := s.cores.get {} c

/-- Replace a core. -/
def State.setCore (s : State) (c : Nat) (x : Core) : State := { s with cores := s.cores.put c x }

/-- The keys of a team's groups. -/
def State.groupsOf (s : State) (team : Nat) : List Nat :=
  (List.range (s.teams.get {} team).type.groups).map (team * 32 + ·)

/-- Change one group. -/
def State.mapGroup (s : State) (k : Nat) (f : Group → Group) : State :=
  { s with groups := s.groups.put k (f (s.groups.get {} k)) }

/-- Change every group of a team. -/
def State.mapTeamGroups (s : State) (team : Nat) (f : Group → Group) : State :=
  foldState (s.groupsOf team) s fun k s => s.mapGroup k f

/-! ## What is under way -/

/-- An entry of `mid` is the acting group's word on this stream. -/
def State.ownMid (s : State) (control : Bool) (m : MidWord) : Bool :=
  m.group == s.actor && m.control == control && m.body != .region

/-- The acting group's word on this stream that is under way. -/
def State.midOf (s : State) (control : Bool) : Option MidWord := s.mid.find? (s.ownMid control)

/-- The acting group's stream has nothing under way. -/
def State.clearMid (s : State) (control : Bool) : State := { s with mid := s.mid.filter fun m => !s.ownMid control m }

/-- The acting group's word on this stream has come as far as `body`. -/
def State.setMid (s : State) (control : Bool) (body : MidBody) : State :=
  { s with mid := { group := s.actor, control, body } :: (s.clearMid control).mid }

/-! ## Clocks, identifiers and ports -/

/-- The nanosecond counter, as the group's die reads it (R28). -/
def State.nsNow (s : State) : Word := s.pkg.ns

/-- The die of a core. -/
def dieOf (core : Nat) : Nat := core / 64

/-- The cluster of a core, die * 16 + cluster. -/
def clusterOf (core : Nat) : Nat := core / 4

/-- R98. -/
def gidOf (core port slot : Nat) : Nat := core * 64 + port * 16 + slot

/-- R98: GID of a group. -/
def State.gid (s : State) (g : Group) : Nat := gidOf (s.teams.get {} g.team).core g.port g.slot

/-- R283: a port that a wake, a placement or a debug command reaches is not gated, and is idle from now on at the
earliest. -/
def State.wakePort (s : State) (core port : Nat) : State :=
  let x := s.core core
  s.setCore core { x with gated := x.gated &&& ~~~(1#4 <<< port)
                          idleFrom := SMap.set 0 x.idleFrom port (s.cluster (clusterOf core)).cycles }

/-- R44: the cores of a partition, by number. -/
def Partition.coreList (p : Partition) : List Nat :=
  (List.range 256).filter fun c => bit (p.page.cores.get 0 (dieOf c)) (c % 64)

/-- The lowest die on which a partition has a core. -/
def State.homeDie (s : State) (part : Nat) : Nat := ((s.part part).coreList.map dieOf).headD 0

/-- R174: requester `r` makes the writes between `s` and `t` that no other is named for. -/
def State.by (s : State) (r : Nat) (t : State) : State :=
  { t with tags := t.tags ++ (List.range (t.stores.length - s.stores.length)).map fun i => (s.stores.length + i, r) }

/-- R174: the debug unit of a die. -/
def debugUnit (die : Nat) : Nat := 268 + die

/-- R174: the task machine of a die. -/
def taskUnit (die : Nat) : Nat := 260 + die

/-- R283: every port of the partition's cores. -/
def State.wakeCores (s : State) (part : Nat) : State :=
  foldState (s.part part).coreList s fun c s => foldState (List.range 4) s fun p s => s.wakePort c p

/-- R283: the ports of some groups. -/
def State.wakePorts (s : State) (ks : List Nat) : State :=
  foldState ks s fun k s => s.wakePort (s.team (s.group k).team).core (s.group k).port

/-! ## Control registers (R127, R318) -/

/-- A k register; k0 reads 0. -/
def Group.getK (g : Group) (r : BitVec 6) : Word := if r = 0 then 0 else g.k.get 0 r.toNat

/-- Write a k register; a write to k0 is discarded. -/
def Group.setK (g : Group) (r : BitVec 6) (v : Word) : Group :=
  if r = 0 then g else { g with k := SMap.set 0 g.k r.toNat v }

/-- A predicate. -/
def Group.getC (g : Group) (p : BitVec 3) : Bool := g.c.getLsbD p.toNat

/-- Write a predicate. -/
def Group.setC (g : Group) (p : BitVec 3) (v : Bool) : Group :=
  { g with c := if v then g.c ||| (1#8 <<< p.toNat) else g.c &&& ~~~(1#8 <<< p.toNat) }

/-- An m register; m0 reads all ones (R132). -/
def Group.getM (g : Group) (r : BitVec 3) : Word32 := if r = 0 then 0xFFFFFFFF else g.m.get 0 r.toNat

/-- Write an m register; a write to m0 is discarded. -/
def Group.setM (g : Group) (r : BitVec 3) (v : Word32) : Group :=
  if r = 0 then g else { g with m := SMap.set 0 g.m r.toNat v }

/-! ## How an instruction of a stream ends -/

/-- The bit of a stream, lane or control. -/
def streamBit (control : Bool) : BitVec 2 := if control then 2#2 else 1#2

/-- R286: an instruction of a stream has completed, which ends a step of it, unless a park has still to end. -/
def Group.stepped (g : Group) (control : Bool) : Group :=
  { g with stepOver := g.stepOver || (g.stepping == some control && !(control && g.park.isSome))
           passed := g.passed &&& ~~~streamBit control }

/-- A group parked by SCALL or WAITM whose wake is not held back by a stop (R286, R431). -/
def Group.wakeable (g : Group) : Bool := g.stop == .none || (g.stepping == some true && !g.stepOver)

/-- Where a port keeps what belongs to the lane or the control stream. -/
def portKey (port : Nat) (control : Bool) : Nat := 2 * port + b2n control

/-- R101: after an issue of a group its team's rotation pointer stands at the slot after the winner's. -/
def State.rotateOf (s : State) (k : Nat) (control : Bool) : State :=
  let g := s.group k
  let t := s.team g.team
  s.setTeam g.team { t with pointers := SMap.set 0 t.pointers (portKey g.port control) ((g.slot + 1) % 16) }

/-- R111, R113: a group that cycles count no more has the clocks in which it issued, and that have still to come, counted
at once. -/
def Group.flushIssued (g : Group) : Group :=
  { g with groupCycles := g.groupCycles + g.issued.length, issueCycles := g.issueCycles + g.issued.length, issued := [] }

/-- R111: a group issues in a clock, which counts unless the debugger had stopped it before; where the instruction itself
has stopped it, at once. -/
def Group.issueAt (g : Group) (clock : Nat) (counted : Bool) : Group :=
  let g := if !counted || g.issued.contains clock then g else { g with issued := clock :: g.issued }
  if g.stop == .debug then g.flushIssued else g

/-- R101: the clock of a port in which its next instruction issues. -/
def State.slotClock (s : State) (core port : Nat) (control : Bool) : Nat :=
  max (s.cluster (clusterOf core)).cycles ((s.core core).slots.get 0 (portKey port control))

/-- R101: group `k` has issued on a stream: in the first clock of its port that is still free for that stream; `counted`
says that cycles counted for it. -/
def State.takeSlot (s : State) (k : Nat) (control counted : Bool) : State :=
  let g := s.group k
  let core := (s.team g.team).core
  let clock := s.slotClock core g.port control
  let c := s.core core
  ((s.setCore core { c with slots := SMap.set 0 c.slots (portKey g.port control) (clock + 1) }).mapGroup k
    fun g => g.issueAt clock counted).rotateOf k control

/-- R101: how far behind its team's rotation pointer a group's slot stands. -/
def State.rotation (s : State) (k : Nat) (control : Bool) : Nat :=
  let g := s.group k
  (g.slot + 16 - (s.team g.team).pointers.get 0 (portKey g.port control) % 16) % 16

/-- R101: groups of one team in the order in which their ports select them. -/
def State.inTurn (s : State) (control : Bool) (ks : List Nat) : List Nat :=
  sortBy (fun a b => decide (s.rotation a control ≤ s.rotation b control)) ks

/-- R276: the halt line or a stop broadcast has reached group `k`. -/
def State.lineReached (s : State) (k : Nat) : Bool := (s.group k).asked || (s.part (s.group k).part).halt.isSome

/-- R101, R276: the control instruction of group `k` that waited has been completed by another agent's action, and so has
issued. -/
def State.waitIssued (s : State) (k : Nat) : State :=
  let due := s.lineReached k
  (if due then s.mapGroup k fun g => { g with skid := g.skid + 1 } else s).takeSlot k true ((s.group k).stop != .debug)

/-- R163: a stream's memory instruction waits for a page walk. -/
def Group.walk (g : Group) (control : Bool) : Group :=
  let g := { g with walking := g.walking ||| streamBit control }
  if control then { g with cwait := some .translate } else { g with lwait := some .translate }

/-- R163: the translation that a stream waited for is at hand. -/
def Group.walkDone (g : Group) (control : Bool) : Group :=
  let g := { g with walking := g.walking &&& ~~~streamBit control }
  if control then { g with cwait := none } else { g with lwait := none }

/-- A page walk of the stream is in progress. -/
def Group.walks (g : Group) (control : Bool) : Bool := g.walking &&& streamBit control != 0

/-- R102: the partner of a paired lane issue shares the winner's clock. -/
def State.shareSlot (s : State) (k : Nat) : State :=
  let g := s.group k
  let clock := (s.core (s.team g.team).core).slots.get 0 (portKey g.port false) - 1
  s.mapGroup k fun g => g.issueAt clock (g.stop != .debug)

/-- A waiting control instruction completes by another agent's action, at the next word. -/
def Group.completeWait (g : Group) : Group :=
  { g.stepped true with cpc := g.cpc + 4, cwait := none, ctlIssued := g.ctlIssued + 1 }

/-- The control instruction completes: the group becomes `g`, at the next word. -/
def State.ctlDone (s : State) (g : Group) : Res := .next (s.setG { g with cpc := g.cpc + 4, cwait := none })

/-- The control instruction completes and goes to `pc`. -/
def State.ctlJump (s : State) (g : Group) (pc : Word) : Res := .next (s.setG { g with cpc := pc, cwait := none })

/-- The control instruction waits without completing. -/
def State.ctlWait (s : State) (w : Wait) : Res := .next (s.setG { s.g with cwait := some w })

/-- The lane instruction completes: the group becomes `g`, at the next word. -/
def State.laneDone (s : State) (g : Group) : Res := .next (s.setG { g with lpc := g.lpc + 1, lwait := none })

/-- The lane instruction waits without completing. -/
def State.laneWait (s : State) (w : Wait) : Res := .next (s.setG { s.g with lwait := some w })

/-- R216: control instructions that write memory or start work are held while a region of the team is pending and none
is open, and in a group that has closed a region still open. -/
def State.regionHeld (s : State) : Bool :=
  (s.t.pending.isSome && s.t.openRegion.isNone) || (s.g.closed.isSome && s.t.openRegion.isSome)

/-- R216: `r` unless the instruction is held. -/
def State.unlessHeld (s : State) (r : Res) : Res := if s.regionHeld then s.ctlWait .regionCommit else r

/-- R200: the team has an open speculative region. -/
def Team.speculative (t : Team) : Bool := t.openRegion.any (·.spec)

/-! ## Trace streams (R288) -/

/-- Set TRACE_PTR of a die. -/
def State.setTracePtr (s : State) (part die : Nat) (ptr : Word) : State :=
  let p := s.part part
  s.setPart part { p with dbg := { p.dbg with tracePtr := p.dbg.tracePtr.put die ptr } }

/-- Store one word at the end of a die's stream, while it has room; nothing while its page is to be migrated.  A word
whose store fails a check is dropped (log 76). -/
def State.traceStore (s : State) (part die : Nat) (w : Word) : Option State :=
  let p := s.part part
  let ptr := p.dbg.tracePtr.get 0 die
  let bytes := field ptr 0 32
  let len := field p.dbg.traceLen 6 26 * 64
  if bit ptr 63 || len < bytes + 8 then some (s.setTracePtr part die (ptr ||| at_ 1 63))
  else
    match s.agentAccess part (field p.dbg.traceBase 6 51 * 64 + die * len + bytes) 8 .write with
    | .error none => none
    | .error (some c) => some (s.touchFail part c (field p.dbg.traceBase 6 51 * 64 + die * len + bytes))
    | .ok (loc, t, s) =>
      some ((s.by (debugUnit die) ((s.holdLine part t true).commitBytes loc (wordBytes 8 w))).setTracePtr part die
        (at_ (bytes + 8) 0 ||| (if len ≤ bytes + 8 then at_ 1 63 else 0)))

/-- Store words of a die's stream in order, and the words that still wait. -/
def State.traceStores (part die : Nat) : State → List Word → State × List Word
  | s, [] => (s, [])
  | s, w :: ws =>
    match s.traceStore part die w with
    | none => (s, w :: ws)
    | some s => State.traceStores part die s ws

/-- Store what waits of a die's stream, and then some words. -/
def State.traceWords (s : State) (part die : Nat) (ws : List Word) : State :=
  let r := State.traceStores part die s ((s.part part).dbg.traceWait.get [] die ++ ws)
  let p := r.1.part part
  r.1.setPart part { p with dbg := { p.dbg with traceWait := SMap.set [] p.dbg.traceWait die r.2 } }

/-- Write one word at the end of a die's stream. -/
def State.traceWord (s : State) (part die : Nat) (w : Word) : State := s.traceWords part die [w]

/-- R288: a frame, with the whole nanosecond counter, before an event that needs one. -/
def State.traceFrame (s : State) (part die : Nat) (framed : Bool) : State :=
  if framed then s else (s.traceWord part die 1).traceWord part die s.nsNow

/-- The long payload word of an event, where it has one. -/
def State.traceLong (s : State) (part die : Nat) (long : Option Word) : State :=
  match long with
  | some w => s.traceWord part die w
  | none => s

/-- R288: the first word of an event of type `ty`, `d` nanoseconds after the last. -/
def traceHead (ty payload d : Nat) (long : Bool) : Word :=
  let lg := if long then at_ 1 9 else 0
  if d ≤ 255 then word [at_ ty 0, lg, at_ d 16, at_ payload 24]
  else word [at_ ty 0, at_ 1 8, lg, at_ d 16, at_ payload 32]

/-- R288: the stream of a die has an event at `now`. -/
def State.traceStamp (s : State) (part die now : Nat) : State :=
  let p := s.part part
  s.setPart part { p with dbg := { p.dbg with traceNs := p.dbg.traceNs.put die now } }

/-- R288: TRACE has gone from 0 to 1, and each die's stream starts with a frame. -/
def State.startTrace (s : State) (part : Nat) : State :=
  foldState (List.range 4) s fun die s => (s.traceFrame part die false).traceStamp part die s.nsNow.toNat

/-- Write one event with its payload, and a frame before it where the delta needs one. -/
def State.traceEvent (s : State) (part die ty payload : Nat) (long : Option Word) : State :=
  if !bit (s.part part).dbg.ctl 1 then s
  else
    let now := s.nsNow.toNat
    let d := now - (s.part part).dbg.traceNs.get 0 die
    let framed := decide (d ≤ 65535)
    let s := (s.traceFrame part die framed).traceStamp part die now
    (s.traceWord part die (traceHead ty payload (if framed then d else 0) long.isSome)).traceLong part die long

/-! ## Stop records, faults and the halt line -/

/-- R276, R430: the stop record of a group. -/
def State.groupRecord (s : State) (g : Group) (kind : Nat) (cause : BitVec 8) (flanes : Word32) (addr info : Word) :
    StopRecord :=
  let t := s.teams.get {} g.team
  { src := 0, kind, gid := s.gid g
    words := [
      word [at_ cause.toNat 56, at_ kind 48, at_ (min g.skid 255) 40, at_ (b2n (g.tx.depth != 0)) 32,
        at_ (b2n (t.openRegion.isSome || t.pending.isSome)) 33, at_ (b2n g.inHandler) 34, at_ (b2n g.park.isSome) 35,
        at_ (s.gid g) 0],
      g.cpc,
      (if g.running then word [at_ (g.lpc % 2 ^ 17) 32, at_ g.cur.toNat 0] else 0),
      word [at_ flanes.toNat 32, at_ g.live.toNat 0],
      addr, info, 0, s.nsNow] }

/-- R276: the origin record of a halt that neither a group nor an engine command raised. -/
def State.agentRecord (s : State) (src : Nat) (cause : BitVec 8) (addr info prog : Word) : StopRecord :=
  { src, kind := 0, gid := 0
    words := [word [at_ cause.toNat 56, at_ src 52], 0, 0, 0, addr, info, prog, s.nsNow] }

/-- R274: raise the partition's halt line with this origin record; a later origin joins the same halt.  STOP0 keeps
the first (R284). -/
def State.raiseHalt (s : State) (part : Nat) (cause : BitVec 8) (r : StopRecord) : State :=
  let s := s.touchFail part cause (r.words.getD 4 0).toNat
  let p := s.part part
  match p.halt with
  | some h =>
    (s.setPart part { p with halt := some { h with records := h.records ++ [r] } }).traceEvent part (r.gid / 4096) 0x12
      (r.gid + cause.toNat * 2 ^ 14) none
  | none =>
    let stop0 := (List.range 8).foldl (fun m i => SMap.set 0 m i (r.words.getD i 0)) p.dbg.stop0
    let s := (s.setPart part { p with halt := some { cause, ns := s.nsNow.toNat, records := [r] }
                                      dbg := { p.dbg with stop0 } }).wakeCores part
    s.traceEvent part (r.gid / 4096) 0x12 (r.gid + cause.toNat * 2 ^ 14) none

/-- R277: a debug stop or a snapshot asks for a dump. -/
def State.queueDump (s : State) (part event : Nat) (records : List StopRecord) : State :=
  let p := s.part part
  s.setPart part { p with dbg := { p.dbg with dumps := p.dbg.dumps ++
    [{ event, cause := 0, records, ns := s.nsNow.toNat }] } }

/-- R286, R431: a step of group `g` ends, and a dump of its record is due. -/
def State.dumpStep (s : State) (g : Group) : State :=
  s.queueDump g.part 1 [s.groupRecord { g with skid := 1 } 4 0 0 0 0]

/-- R286, R431: a step of group `k` whose instruction has completed ends. -/
def State.endStep (s : State) (k : Nat) : State :=
  let g := s.group k
  if g.stepping.isSome && g.stepOver then
    let g := { g with stepping := none, stepOver := false, skid := 0 }
    (s.mapGroup k fun _ => g).dumpStep g
  else s

/-- R275: some lanes of a lane word have performed their accesses, and others are still to come. -/
def MidWord.partway (m : MidWord) : Bool :=
  match m.body with
  | .lanes p items _ => items.length != (p.ok.map (·.2.length)).sum
  | _ => false

/-- R275: group `k` is in the middle of a lane word. -/
def State.partway (s : State) (k : Nat) : Bool := s.mid.any fun m => m.group == k && m.partway

/-- R285, R286: a stop broadcast finds a group running, or within a step, which it cancels. -/
def Group.askable (g : Group) : Bool := !g.retired && !g.asked && (g.stop == .none || (g.stepping.isSome && !g.stepOver))

/-- R275, R286: a stop broadcast finds group `k` so, and a step not in the middle of a lane word. -/
def State.askable (s : State) (k : Nat) : Bool := (s.group k).askable && ((s.group k).stop == .none || !s.partway k)

/-- R285, R286: a stop broadcast has reached a group. -/
def Group.ask (g : Group) : Group := if g.askable then { g with asked := true, stepping := none, stepOver := false } else g

/-- R277, R285: a debug stop of groups `ks` begins at `now`.  The hits of one time are one event, and so are those of the
matching group `k` before it stops. -/
def Debug.beginStop (d : Debug) (now : Nat) (k : Option Nat) (ks : List Nat) : Debug :=
  let joins := fun (x : DebugStop) => x.hit && k.any fun k => x.ns == now || x.groups.contains k
  let rest := (d.stops.map fun x => if joins x then x else { x with groups := x.groups.filter fun j => !ks.contains j }).filter fun x =>
    !(x.groups.isEmpty && x.records.isEmpty)
  match d.stops.find? joins with
  | some y => { d with stops := rest.map fun x => if x == y then { x with groups := (x.groups ++ ks).eraseDups } else x }
  | none => { d with stops := rest ++ [{ ns := now, hit := k.isSome, groups := ks }] }

/-- R277: the record of group `k`'s stop joins the debug stop that it belongs to. -/
def Debug.addStop (d : Debug) (now k : Nat) (r : StopRecord) : Debug :=
  match d.stops.find? (·.groups.contains k) with
  | some y =>
    { d with stops := d.stops.map fun x => if x == y then { x with groups := x.groups.filter (· != k), records := x.records ++ [r] } else x }
  | none => { d with stops := d.stops ++ [{ ns := now, hit := false, groups := [], records := [r] }] }

/-- R277, R285, R286: a command, or a hit of group `k`, asks groups `ks` of a partition to stop. -/
def State.askStop (s : State) (part : Nat) (k : Option Nat) (ks : List Nat) : State :=
  let new := ks.filter s.askable
  if new.isEmpty && k.isNone then s
  else
    let p := s.part part
    foldState new (s.setPart part { p with dbg := p.dbg.beginStop s.nsNow.toNat k (k.toList ++ new) }) fun j s => s.mapGroup j Group.ask

/-- R277: group `k` of a partition has stopped for the debugger with `r`. -/
def State.addStop (s : State) (part k : Nat) (r : StopRecord) : State :=
  let p := s.part part
  s.setPart part { p with dbg := p.dbg.addStop s.nsNow.toNat k r }

/-- R247, R275: a group that leaves its wait for the serial token withdraws its request. -/
def State.withdrawToken (s : State) (part key : Nat) : State :=
  let p := s.part part
  if p.serialQ.contains key then s.setPart part { p with serialQ := p.serialQ.filter (· != key) } else s

/-- R245, R246: the serial token held by a group is free again. -/
def State.releaseToken (s : State) (part key : Nat) : State :=
  let p := s.part part
  if p.serialHolder = some key then s.setPart part { p with serialHolder := none } else s

/-- R9, R274: the acting group faults: no effect but the halt line, the origin record and the group's stop, which ends a step
of it (R286) and stands for the one that a stop broadcast asks for (R276); a holder of the serial token releases it (R246). -/
def State.raiseFault (s : State) (cause : BitVec 8) (flanes : Word32) (addr info : Word) : State :=
  let r := s.groupRecord s.g 0 cause flanes addr info
  let s' := ((s.raiseHalt s.g.part cause r).withdrawToken s.g.part s.actor).releaseToken s.g.part s.actor
  let s' := if s.g.stepping.isSome then s'.dumpStep s.g else s'
  s'.setG { s.g with stop := .halt, asked := false, stepping := none, stepOver := false }

/-- A meaning that faults without a failing lane. -/
def State.fault (s : State) (cause : BitVec 8) (addr info : Word) : Res := .next (s.raiseFault cause 0 addr info)

/-- R314: ILLEGAL_OP of a word. -/
def State.illegal (s : State) : Res := s.fault causeIllegalOp 0 0

/-! ## Lane transactions: aborting lanes (R235, R237) -/

/-- R237: a cause word. -/
def txCauseWord (depth cause detail : Nat) : Word32 :=
  BitVec.ofNat 32 (detail % 65536 * 65536 + depth % 8 * 256 + cause % 16)

/-- Clear lanes in OUTER and PEND of the entries of a stack above its lowest `keep`. -/
def clearStack (stack : List MaskEntry) (keep : Nat) (x : Word32) : List MaskEntry :=
  let n := stack.length - keep
  (stack.take n).map (fun e => { e with outer := e.outer &&& ~~~x, pend := e.pend &&& ~~~x }) ++ stack.drop n

/-- R235: abort the lanes of `x`, which then wait to rejoin at TXTGT. -/
def Group.abortLanes (g : Group) (x : Word32) (cause detail : Nat) : Group :=
  { g with
    cur := g.cur &&& ~~~x
    stack := clearStack g.stack g.tx.base x
    tx := { g.tx with
      active := g.tx.active &&& ~~~x
      rejoin := g.tx.rejoin ||| x
      xc := (lanesOf x).foldl (fun m i => SMap.set 0 m i (txCauseWord g.tx.depth cause detail)) g.tx.xc
      reads := (lanesOf x).foldl (fun m i => SMap.del m i) g.tx.reads
      writes := (lanesOf x).foldl (fun m i => SMap.del m i) g.tx.writes } }

/-! ## Taking a program trap and returning from one -/

/-- R143: set the block in progress aside. -/
def Group.saveBlock (g : Group) : TrapSlot :=
  { running := g.running, lpc := g.lpc, cur := g.cur, stack := g.stack, skip := g.skip, lfmt := g.lfmt, l := g.l, a := g.a }

/-- R143: bring the block in progress back. -/
def Group.restoreBlock (g : Group) (x : TrapSlot) : Group :=
  { g with running := x.running, lpc := x.lpc, cur := x.cur, stack := x.stack, skip := x.skip, lfmt := x.lfmt
           l := x.l, a := x.a }

/-- R273: TRAPINFO0. -/
def trapInfo0 (t : Trap) : Word :=
  word [at_ t.detail.toNat 32, at_ (b2n t.tx) 9, at_ (b2n t.control) 8, at_ t.cause.toNat 0]


/-- R143, R273: the group enters its handler for `t`, to resume at `resume`.  A wait of the control stream stops
without completing, END, PBEGIN and PEND among them; a WAITM is waited for again after TRET, while a SCALL stays parked
(R344).  DESIGN CHOICE: a group that leaves its PEND so has not closed the region, and the PEND that it issues after TRET acts on
what stands then (log 113). -/
def State.enterHandler (s : State) (g : Group) (t : Trap) (resume : Word) : State :=
  let park := match g.park with
    | some (.waitm ..) => none
    | p => p
  let resume := if g.inCall then resume + 4 else resume
  let g' := { g with
    trapSlot := some g.saveBlock, running := false, stack := [], skip := 0, handlerBlock := none, walking := 0
    inHandler := true, cwait := none, lwait := none, threshold := none, atBarrier := none, atPbegin := none
    closed := g.closed.filter (!·)
    ended := false, park, inCall := false, seen := []
    trapV := s.t.type.trapV, trapPc := t.pc, trapLanes := (t.lanes.setWidth 64), trapInfo0 := trapInfo0 t
    trapInfo1 := resume, trapInfo2 := t.info2, trapInfo3 := s.nsNow, cpc := s.t.type.trapV }
  ((s.withdrawToken g.part s.actor).setG g').traceEvent g.part (dieOf s.t.core) 0x12 (s.gid g + t.cause.toNat * 2 ^ 14) none

/-- R144: the acting group, which is `g` once it has completed the trapping instruction, takes the trap.  In the handler
the instruction faults with TRAP_NEST instead.  Open transactions abort first (R238). -/
def State.takeTrap (s : State) (g : Group) (t : Trap) : State :=
  if g.inHandler then s.raiseFault causeTrapNest 0 0 (at_ t.cause.toNat 0)
  else
    let tx := g.tx.active != 0 && !g.tx.serial
    let g := if tx then g.abortLanes g.tx.active 4 t.cause.toNat else g
    s.enterHandler g { t with tx } g.cpc

/-- R343: TRET of a group whose handler block has ended. -/
def State.returnFromTrap (s : State) : Res :=
  let g := s.g
  match g.inHandler, g.trapSlot with
  | true, some x =>
    if g.handlerBlock.isSome || g.running then s.ctlWait .cqWait
    else if g.trapInfo1.toNat % 4 != 0 then s.illegal
    else
      let g' := { g.restoreBlock x with inHandler := false, trapSlot := none, cpc := g.trapInfo1, cwait := none }
      match g.heldTrap with
      | none => .next (s.setG g')
      | some t => .next (s.enterHandler { g' with heldTrap := none } t g.trapInfo1)
  | _, _ => s.illegal

/-! ## Instructions in flight (R137, R61) -/

/-- The in-flight list that a load, or a store under `store`, joins. -/
def Group.flights (g : Group) (window store : Bool) : List Flight := if store then g.st else if window then g.sp else g.gl

/-- The lane whose value a landing carries, 32 for the control stream. -/
def Landing.lane : Landing → Nat
  | .k _ _ => 32
  | .v key _ => key % 32
  | .o key _ => key % 32

/-- Add an instruction to its counter. -/
def Group.addFlight (g : Group) (window store : Bool) (f : Flight) : Group :=
  let f := { f with seq := g.seq }
  let g := { g with seq := g.seq + 1 }
  if store then { g with st := g.st ++ [f] }
  else if window then { g with sp := g.sp ++ [f] }
  else { g with gl := g.gl ++ [f] }

/-- R59: a store that was divided between points joins its counter under the number that its first point gave it. -/
def Group.addStoreAs (g : Group) (seq : Option Nat) (f : Flight) : Group :=
  match seq with
  | some n => { g with st := g.st ++ [{ f with seq := n }] }
  | none => g.addFlight false true f

/-- R61: why a later access is held behind a system-scope atomic with ACQ. -/
def Group.acqHold (g : Group) : Option Wait :=
  if g.gl.any (·.acq) then some .cwaitGl else if g.st.any (·.acq) then some .cwaitSt else none

/-! ## Accesses of the instruction in progress (R285) -/

/-- Note an access for the watchpoints. -/
def State.noteAccess (s : State) (lane : Nat) (addr : Word) (loc len : Nat) (rd wr : Bool) : State :=
  { s with accesses := { lane, addr, loc, len, rd, wr } :: s.accesses }

/-- Remember the bytes that a write of the acting group replaces, which an unflagged element read may still return
(R182). -/
def State.keepPast (s : State) (loc n : Nat) : State :=
  s.setG { s.g with past := cellsAt loc (s.viewBytes s.g.team loc n) ++ s.g.past }

/-- A write by the acting group's control or lane stream: into the open region while it is speculative (R202, R203),
otherwise into memory. -/
def State.groupWrite (s : State) (loc : Nat) (bs : List Byte) : State :=
  let s := s.keepPast loc bs.length
  match s.t.openRegion with
  | some r =>
    if r.spec then
      (s.setT { s.t with openRegion := some { r with writes := overlayWrite r.writes loc bs } }).wakeVersion s.g.team loc
    else s.commitBytes loc bs
  | none => s.commitBytes loc bs

/-- R59, R63: a posted write leaves its agent. -/
def State.post (s : State) (x : Posted) : State := { s with pkg := { s.pkg with posted := s.pkg.posted ++ [x] } }

/-- R59, R188: a store by the acting group's control or lane stream, whose flight has the number `seq`: on the non-coherent
window a posted write, which the host performs later. -/
def State.groupStore (s : State) (t : Target) (seq : Nat) (bs : List Byte) : State :=
  if t.isNonCoherent then s.post { loc := t.loc, bytes := bs, store := some (s.actor, seq) } else s.groupWrite t.loc bs

/-- R60, R188: an access of a lane, or of the control stream as lane 32, to the non-coherent window whose request reaches the
host later. -/
def Target.lateAccess (t : Target) (lane : Nat) (addr : Word) (n : Nat) (op : LateOp) (dest : LateDest) : LateAccess :=
  { loc := t.loc, len := n, op, dest, addr, lane }

/-- R188: stores of group `k` that were sent on the link before it gave the number `seq` reach the host. -/
def State.flushSent (s : State) (k seq : Nat) : State :=
  let due := fun (x : Posted) => x.store.any (·.1 == k) && x.sent.any (· ≤ seq)
  foldState (s.pkg.posted.filter due) { s with pkg := { s.pkg with posted := s.pkg.posted.filter fun x => !due x } }
    fun x s => s.commitBytes x.loc x.bytes

/-- R59, R188: before the acting group performs an atomic on a target of the system range its stores that had been sent on
the link reach the host. -/
def State.syncFor (s : State) (t : Target) : State := if t.isSystem then s.flushSent s.actor s.g.seq else s

/-- R188: before an instruction that needs its value at once reads the non-coherent window the group's stores that had been
sent on the link reach the host. -/
def State.syncRead (s : State) (t : Target) : State := if t.isNonCoherent then s.flushSent s.actor s.g.seq else s

/-- R330: the value of LDK. -/
def ldkValue (sx : Bool) (n : Nat) (bs : List Byte) : Word :=
  if sx then signExt (8 * n) (leNat bs) else BitVec.ofNat 64 (leNat bs)

/-- A read by the acting group: its own view (R202, R203). -/
def State.groupRead (s : State) (loc n : Nat) : List Byte := s.viewBytes s.g.team loc n

end Sys2Proof.Machine
end

