-- ==== Sys2Proof/Machine/Barriers.lean ====
section
/-! DEFINITION. Sys2Proof/Machine/Barriers.lean: barrier registers (R140-R142, R201, R350): their updates, which a
group's control stream and an engine command share, and the six barrier instructions. -/

namespace Sys2Proof.Machine

/-- R140: the fields of a barrier register. -/
structure Bar where
  /-- PHASE. -/
  phase : Bool
  /-- VALID. -/
  valid : Bool
  /-- REFS. -/
  refs : Nat
  /-- INIT. -/
  init : Nat
  /-- ARRIVE. -/
  arrive : Nat
  /-- PEND, signed. -/
  pend : Int
  deriving DecidableEq, Repr

/-- The fields of a word. -/
def barOf (w : Word) : Bar :=
  { phase := bit w 63, valid := bit w 62, refs := field w 52 10, init := field w 42 10, arrive := field w 32 10
    pend := (w.extractLsb' 0 32).toInt }

/-- The word of the fields. -/
def Bar.word (x : Bar) : Word :=
  Machine.word [at_ (b2n x.phase) 63, at_ (b2n x.valid) 62, at_ (x.refs % 1024) 52, at_ (x.init % 1024) 42,
    at_ (x.arrive % 1024) 32, (BitVec.ofInt 32 x.pend).setWidth 64]

/-- A team's barrier. -/
def State.bar (s : State) (team b : Nat) : Bar := barOf ((s.teams.get {} team).bars.get 0 b)

/-- Write a team's barrier. -/
def State.setBar (s : State) (team b : Nat) (x : Bar) : State :=
  let t := s.teams.get {} team
  s.setTeam team { t with bars := SMap.set 0 t.bars b x.word }

/-- The group waits at barrier `b`. -/
def Group.waitsAt (g : Group) (b : Nat) : Bool := g.atBarrier.map (·.1) == some b

/-- R142: a group that waits at `b` is woken.  A group that is stopped, and not by a step of this instruction, does not
complete its wait; it looks again when it resumes (R275, R286). -/
def Group.wakeBarrier (g : Group) (b : Nat) (pred : Bool) : Group :=
  match g.atBarrier with
  | some (b', _, p) =>
    if b' ≠ b then g
    else if !g.wakeable then { g with atBarrier := none }
    else { (g.setC (BitVec.ofNat 3 p) pred).completeWait with atBarrier := none }
  | none => g

/-- Wake every group of a team that waits at `b`; each that completes its BWAIT has issued it, in the order of its port's
rotation (R101). -/
def State.wakeBarrier (s : State) (team b : Nat) (pred : Bool) : State :=
  let woken := s.inTurn true ((s.groupsOf team).filter fun k => (s.group k).waitsAt b && (s.group k).wakeable)
  foldState woken (s.mapTeamGroups team fun g => g.wakeBarrier b pred) fun k s => s.waitIssued k

/-- R201: mark a barrier as touched by an uncommitted region. -/
def Region.touch (r : Region) (id : Option Nat) (b : Nat) : Region :=
  if r.spec && id = some r.id then { r with touched := r.touched ||| (1#16 <<< b) } else r

/-- R201: mark a barrier as touched by region `id` of a team. -/
def State.touchBar (s : State) (team : Nat) (id : Option Nat) (b : Nat) : State :=
  let t := s.teams.get {} team
  s.setTeam team { t with openRegion := t.openRegion.map (·.touch id b), pending := t.pending.map (·.touch id b) }

/-- R141, R142: perform one update whose result is `x`, on behalf of region `id`. -/
def State.settleBar (s : State) (team b : Nat) (id : Option Nat) (x : Bar) : Except (BitVec 8) State :=
  if x.pend < -(2 ^ 31) || (2 ^ 31 : Int) ≤ x.pend then .error causeBarMisuse
  else
    let s := s.touchBar team id b
    if x.arrive ≠ 0 then .ok (s.setBar team b x)
    else if x.pend ≠ 0 then .error causeBarMisuse
    else .ok ((s.setBar team b { x with phase := !x.phase, arrive := x.init }).wakeBarrier team b true)

/-- R141: BARRIVE. -/
def State.arriveBar (s : State) (team b : Nat) (id : Option Nat) : Except (BitVec 8) State :=
  let x := s.bar team b
  if !x.valid || x.arrive = 0 then .error causeBarMisuse else s.settleBar team b id { x with arrive := x.arrive - 1 }

/-- R141: BEXPECT. -/
def State.expectBar (s : State) (team b : Nat) (id : Option Nat) (n : Int) : Except (BitVec 8) State :=
  let x := s.bar team b
  if !x.valid then .error causeBarMisuse else s.settleBar team b id { x with pend := x.pend + n }

/-- R141: BINIT.  Where both faults are due BAR_BUSY, with which the table's row begins, is raised (log 91). -/
def State.initBar (s : State) (team b : Nat) (id : Option Nat) (n : Nat) : Except (BitVec 8) State :=
  let x := s.bar team b
  let waits := (s.groupsOf team).any fun k => (s.group k).waitsAt b
  if waits || x.refs ≠ 0 then .error causeBarBusy
  else if n < 1 || 1023 < n then .error causeBarMisuse
  else .ok ((s.touchBar team id b).setBar team b
    { phase := false, valid := true, refs := 0, init := n, arrive := n, pend := 0 })

/-- R141: BINV. -/
def State.invalidateBar (s : State) (team b : Nat) (id : Option Nat) : Except (BitVec 8) State :=
  let x := s.bar team b
  if x.refs ≠ 0 then .error causeBarBusy
  else .ok (((s.touchBar team id b).setBar team b (barOf 0)).wakeBarrier team b false)

/-- R141: an engine command that names `b` is accepted. -/
def State.acceptBar (s : State) (team b : Nat) (id : Option Nat) : State :=
  let x := s.bar team b
  (s.touchBar team id b).setBar team b { x with refs := x.refs + 1 }

/-- R141: an engine command that names `b` completes, having written `n` bytes. -/
def State.completeBar (s : State) (team b : Nat) (id : Option Nat) (n : Nat) : Except (BitVec 8) State :=
  let x := s.bar team b
  if x.arrive = 0 then .error causeBarMisuse
  else s.settleBar team b id { x with pend := x.pend - n, arrive := x.arrive - 1, refs := x.refs - 1 }

/-- R141: an engine command that names `b` is cancelled. -/
def State.cancelBar (s : State) (team b : Nat) : State :=
  let x := s.bar team b
  s.setBar team b { x with refs := x.refs - 1 }

/-- The region that the acting group's control stream works in. -/
def State.regionId (s : State) : Option Nat := s.t.openRegion.map (·.id)

/-- Engine commands of a team, on both engines. -/
def State.commandsOf (s : State) (team : Nat) : List Cmd :=
  let c := s.core (s.teams.get {} team).core
  (c.copyQ ++ c.matQ).filter (·.team == team)

/-- R346: the engine commands of a team that have not completed.  One that has completed stays with its engine while a write
that no REL covers is still to be performed (R182). -/
def State.liveCommands (s : State) (team : Nat) : List Cmd := (s.commandsOf team).filter fun c => !c.arrived

/-- R201: barrier `b` is named by an engine command of the team's pending region, and the open region is
speculative. -/
def State.pendingNames (s : State) (b : Nat) : Bool :=
  match s.t.openRegion, s.t.pending with
  | some r, some q => r.spec && (s.commandsOf s.g.team).any fun c => c.region == some q.id && c.bar == some b
  | _, _ => false

/-- The checks that every barrier instruction begins with (R127, R216), and `r` after them. -/
def State.barOp (s : State) (b : BitVec 4) (r : Res) : Res :=
  if s.t.type.bars ≤ b.toNat then s.illegal else s.unlessHeld r

/-- A barrier update by the control stream: the instruction completes or faults. -/
def State.barUpdate (s : State) (b : BitVec 4) (f : Nat → Nat → Option Nat → Except (BitVec 8) State) : Res :=
  s.barOp b <|
    if s.pendingNames b.toNat then s.fault causeBarBusy 0 (BitVec.ofNat 64 b.toNat)
    else
      match f s.g.team b.toNat s.regionId with
      | .error c => s.fault c 0 (BitVec.ofNat 64 b.toNat)
      | .ok s' => s'.ctlDone s'.g

/-- R350: BINIT. -/
def execBinit (a : BitVec 6) (b : BitVec 4) (s : State) : Res :=
  s.barUpdate b fun t b id => s.initBar t b id (s.g.getK a).toNat

/-- R350: BEXPECT. -/
def execBexpect (a : BitVec 6) (b : BitVec 4) (s : State) : Res :=
  s.barUpdate b fun t b id => s.expectBar t b id (s.g.getK a).toInt

/-- R350: BARRIVE. -/
def execBarrive (b : BitVec 4) (s : State) : Res :=
  s.barUpdate b fun t b id => s.arriveBar t b id

/-- R350: BINV. -/
def execBinv (b : BitVec 4) (s : State) : Res :=
  s.barUpdate b fun t b id => s.invalidateBar t b id

/-- R350: BWAIT. -/
def execBwait (a : BitVec 6) (b : BitVec 4) (p : BitVec 3) (s : State) : Res :=
  s.barOp b <|
    let x := s.bar s.g.team b.toNat
    let k := match s.g.cwait, s.g.atBarrier with
      | some .barWait, some (_, k, _) => k
      | _, _ => (s.g.getK a).getLsbD 0
    if x.valid && x.phase == k then
      .next (s.setG { s.g with cwait := some .barWait, atBarrier := some (b.toNat, k, p.toNat) })
    else s.ctlDone ({ s.g with atBarrier := none }.setC p x.valid)

/-- R350: BTEST. -/
def execBtest (a : BitVec 6) (b : BitVec 4) (p : BitVec 3) (s : State) : Res :=
  s.barOp b <|
    let x := s.bar s.g.team b.toNat
    s.ctlDone (s.g.setC p (x.valid && x.phase != (s.g.getK a).getLsbD 0))

end Sys2Proof.Machine
end

