-- ==== Sys2Proof/Machine/Numerics.lean ====
section
/-! DEFINITION. Sys2Proof/Machine/Numerics.lean: number formats, rounding and significance tags (R249-R266).  A value
is exact: NaN, an infinity, or a sign, a natural mantissa and a power of two.  Every operation is computed exactly and
rounded once. -/

namespace Sys2Proof.Machine

/-- An exact value. -/
inductive FVal where
  /-- Not a number; no payload is kept (R250). -/
  | nan
  /-- An infinity. -/
  | inf (neg : Bool)
  /-- (-1)^neg * m * 2^e; a zero keeps its sign. -/
  | fin (neg : Bool) (m : Nat) (e : Int)
  deriving DecidableEq, Repr

/-- How a format treats its top exponent (R249). -/
inductive TopCode where
  /-- e all ones: infinity and NaN. -/
  | ieee
  /-- E4M3: only e = 15, f = 7 is NaN. -/
  | e4m3
  /-- Every encoding is finite. -/
  | finite
  deriving DecidableEq, Repr

/-- R249: a floating-point format. -/
structure Fmt where
  /-- Exponent bits. -/
  eb : Nat
  /-- F, fraction bits. -/
  fb : Nat
  /-- Bias. -/
  bias : Nat
  /-- Treatment of the top exponent. -/
  top : TopCode
  /-- FMT[3] flushes it (R256). -/
  flushes : Bool
  /-- The default NaN's encoding. -/
  nan : Nat
  deriving DecidableEq, Repr

/-- FP32. -/
def fp32 : Fmt := ⟨8, 23, 127, .ieee, true, 0x7FC00000⟩
/-- FP64. -/
def fp64 : Fmt := ⟨11, 52, 1023, .ieee, false, 0x7FF8000000000000⟩
/-- FP16. -/
def fp16 : Fmt := ⟨5, 10, 15, .ieee, true, 0x7E00⟩
/-- BF16. -/
def bf16 : Fmt := ⟨8, 7, 127, .ieee, true, 0x7FC0⟩
/-- E4M3. -/
def e4m3 : Fmt := ⟨4, 3, 7, .e4m3, false, 0x7F⟩
/-- E5M2. -/
def e5m2 : Fmt := ⟨5, 2, 15, .ieee, false, 0x7E⟩
/-- E2M3. -/
def e2m3 : Fmt := ⟨2, 3, 1, .finite, false, 0⟩
/-- E3M2. -/
def e3m2 : Fmt := ⟨3, 2, 3, .finite, false, 0⟩
/-- E2M1. -/
def e2m1 : Fmt := ⟨2, 1, 1, .finite, false, 0⟩
/-- X96 of R269: a 96-bit significand, exponents -16,382 to 16,383. -/
def x96 : Fmt := ⟨15, 95, 16383, .ieee, false, 0⟩

/-- R262: the floating-point format of a code from 0x0 to 0x8. -/
def fmtOf (code : Nat) : Fmt :=
  match code with
  | 0 => fp32
  | 1 => fp64
  | 2 => fp16
  | 3 => bf16
  | 4 => e4m3
  | 5 => e5m2
  | 6 => e2m3
  | 7 => e3m2
  | _ => e2m1

/-- Bits of an encoding. -/
def Fmt.width (f : Fmt) : Nat := 1 + f.eb + f.fb

/-- p. -/
def Fmt.p (f : Fmt) : Nat := f.fb + 1

/-- emin. -/
def Fmt.emin (f : Fmt) : Int := 1 - (f.bias : Int)

/-- q, the exponent of the least subnormal (R254). -/
def Fmt.q (f : Fmt) : Int := f.emin - (f.fb : Int)

/-- The largest finite magnitude, as a mantissa. -/
def Fmt.maxM (f : Fmt) : Nat := if f.top = .e4m3 then 14 else 2 ^ (f.fb + 1) - 1

/-- Its power of two. -/
def Fmt.maxE (f : Fmt) : Int :=
  (match f.top with
   | .ieee => ((2 ^ f.eb - 2 : Nat) : Int)
   | _ => ((2 ^ f.eb - 1 : Nat) : Int)) - f.bias - f.fb

/-- `m * 2^k`, dropping bits below the point. -/
def shiftI (m : Nat) (k : Int) : Nat := if 0 ≤ k then m <<< k.toNat else m >>> (-k).toNat

/-- E(x) of R254: the exponent of the leading bit; `x` is not zero. -/
def expOf (m : Nat) (e : Int) : Int := e + (Nat.log2 m : Int)

/-- E of a finite value, 0 for anything else. -/
def FVal.E : FVal → Int
  | .fin _ m e => expOf m e
  | _ => 0

/-- A zero of this sign. -/
def fzero (neg : Bool) : FVal := .fin neg 0 0

/-- A finite non-zero value. -/
def FVal.isNZ : FVal → Bool
  | .fin _ m _ => m != 0
  | _ => false

/-- A zero. -/
def FVal.isZero : FVal → Bool
  | .fin _ m _ => m == 0
  | _ => false

/-- NaN or infinite. -/
def FVal.isSpecial : FVal → Bool
  | .fin .. => false
  | _ => true

/-- Sign. -/
def FVal.neg? : FVal → Bool
  | .nan => false
  | .inf n => n
  | .fin n _ _ => n

/-- The value with its sign changed. -/
def FVal.negate : FVal → FVal
  | .nan => .nan
  | .inf n => .inf (!n)
  | .fin n m e => .fin (!n) m e

/-- The magnitude. -/
def FVal.abs : FVal → FVal
  | .nan => .nan
  | .inf _ => .inf false
  | .fin _ m e => .fin false m e

/-- The mantissa of a finite value at the power of two `g`, exactly, as an integer; `g` is at most its own. -/
def FVal.intAt (g : Int) : FVal → Int
  | .fin n m e => if n then -((m <<< (e - g).toNat : Nat) : Int) else ((m <<< (e - g).toNat : Nat) : Int)
  | _ => 0

/-- The power of two of a finite value. -/
def FVal.pow : FVal → Int
  | .fin _ _ e => e
  | _ => 0

/-- The finite value of an integer and a power of two; a zero is positive. -/
def ofInt (x : Int) (e : Int) : FVal := .fin (x < 0) x.natAbs e

/-! ## Encodings -/

/-- R249: the value of an encoding. -/
def Fmt.decode (f : Fmt) (bits : Nat) : FVal :=
  let s := bits >>> (f.eb + f.fb) % 2 == 1
  let e := (bits >>> f.fb) % 2 ^ f.eb
  let m := bits % 2 ^ f.fb
  if f.top = .ieee && e == 2 ^ f.eb - 1 then (if m == 0 then .inf s else .nan)
  else if f.top = .e4m3 && e == 15 && m == 7 then .nan
  else if e == 0 then (if m == 0 then fzero s else .fin s m f.q)
  else .fin s (2 ^ f.fb + m) ((e : Int) - f.bias - f.fb)

/-- R249, R250: the encoding of a value that the format holds; NaN is the default NaN, and +0 where there is none. -/
def Fmt.encode (f : Fmt) (v : FVal) : Nat :=
  let sb := fun (n : Bool) => if n then 2 ^ (f.eb + f.fb) else 0
  match v with
  | .nan => f.nan
  | .inf n => sb n + (2 ^ f.eb - 1) * 2 ^ f.fb
  | .fin n m e =>
    if m = 0 then sb n
    else
      let x := expOf m e
      if x < f.emin then sb n + shiftI m (e - f.q)
      else sb n + (x + f.bias).toNat * 2 ^ f.fb + (shiftI m (e - (x - f.fb)) - 2 ^ f.fb)

/-! ## Rounding (R253-R255) -/

/-- |x| as an integer multiple of 2^g, rounded in `mode` for a value of sign `neg`. -/
def roundAt (neg : Bool) (m : Nat) (e g : Int) (mode : Nat) : Nat :=
  if g ≤ e then m <<< (e - g).toNat
  else
    let k := (g - e).toNat
    let t := m >>> k
    let r := m % 2 ^ k
    let h := 2 ^ (k - 1)
    let up := match mode with
      | 0 => h < r || (r == h && t % 2 == 1)
      | 1 => false
      | 2 => r != 0 && !neg
      | 3 => r != 0 && neg
      | _ => h ≤ r
    if up then t + 1 else t

/-- The FMT bits that govern an operation (R256). -/
structure FmtBits where
  /-- FMT[3]. -/
  ftz : Bool := false
  /-- FMT[4]. -/
  e4m3Nan : Bool := false
  /-- FMT[5]. -/
  e5m2Inf : Bool := false
  deriving DecidableEq, Repr

/-- The FMT bits of a format register. -/
def fmtBits (fmt : Word32) : FmtBits := ⟨fmt.getLsbD 3, fmt.getLsbD 4, fmt.getLsbD 5⟩

/-- A rounded result: the value, and whether R255 put a finite maximum in place of what overflowed. -/
structure Rounded where
  /-- The value, one the format holds. -/
  val : FVal
  /-- Saturated. -/
  sat : Bool := false
  deriving DecidableEq, Repr

/-- The format's largest finite value of this sign. -/
def Fmt.maxVal (f : Fmt) (neg : Bool) : FVal := .fin neg f.maxM f.maxE

/-- R255: OvfResult. -/
def Fmt.ovf (f : Fmt) (b : FmtBits) (neg : Bool) (mode : Nat) : Rounded :=
  match f.top with
  | .finite => ⟨f.maxVal neg, true⟩
  | .e4m3 => if b.e4m3Nan then ⟨.nan, false⟩ else ⟨f.maxVal neg, true⟩
  | .ieee =>
    if f = e5m2 && !b.e5m2Inf then ⟨f.maxVal neg, true⟩
    else if mode = 1 || (mode = 2 && neg) || (mode = 3 && !neg) then ⟨f.maxVal neg, true⟩
    else ⟨.inf neg, false⟩

/-- R255: InfResult. -/
def Fmt.infResult (f : Fmt) (b : FmtBits) (neg : Bool) : Rounded :=
  match f.top with
  | .finite => ⟨f.maxVal neg, true⟩
  | .e4m3 => if b.e4m3Nan then ⟨.nan, false⟩ else ⟨f.maxVal neg, true⟩
  | .ieee => if f = e5m2 && !b.e5m2Inf then ⟨f.maxVal neg, true⟩ else ⟨.inf neg, false⟩

/-- `a * 2^ea ≤ b * 2^eb`. -/
def leMag (a : Nat) (ea : Int) (b : Nat) (eb : Int) : Bool :=
  let g := min ea eb
  decide (a <<< (ea - g).toNat ≤ b <<< (eb - g).toNat)

/-- R254: Rnd. -/
def Fmt.rnd (f : Fmt) (b : FmtBits) (mode : Nat) (x : FVal) : Rounded :=
  match x with
  | .nan => ⟨.nan, false⟩
  | .inf n => f.infResult b n
  | .fin n m e =>
    if m = 0 then ⟨fzero n, false⟩
    else
      let g := max (expOf m e - f.fb) f.q
      let y := roundAt n m e g mode
      if !leMag y g f.maxM f.maxE then f.ovf b n mode
      else if y = 0 then ⟨fzero n, false⟩
      else if b.ftz && f.flushes && decide (expOf y g < f.emin) then ⟨fzero n, false⟩
      else ⟨.fin n y g, false⟩

/-- R256: a source as a flushing operation reads it. -/
def Fmt.flushSource (f : Fmt) (b : FmtBits) (v : FVal) : FVal :=
  match v with
  | .fin n m e => if b.ftz && f.flushes && m != 0 && decide (expOf m e < f.emin) then fzero n else v
  | _ => v

/-! ## Exact operations -/

/-- R250: the exact sum; `rd` gives the sign of an exact zero from operands of both signs. -/
def fadd (rd : Bool) (a b : FVal) : FVal :=
  match a, b with
  | .nan, _ | _, .nan => .nan
  | .inf x, .inf y => if x = y then .inf x else .nan
  | .inf x, _ => .inf x
  | _, .inf y => .inf y
  | .fin na ma ea, .fin nb mb eb =>
    let g := min ea eb
    let x := (FVal.fin na ma ea).intAt g + (FVal.fin nb mb eb).intAt g
    if x = 0 then fzero (if na = nb then na else rd) else ofInt x g

/-- The exact product. -/
def fmul (a b : FVal) : FVal :=
  match a, b with
  | .nan, _ | _, .nan => .nan
  | .inf x, .inf y => .inf (x != y)
  | .inf x, .fin n m _ => if m = 0 then .nan else .inf (x != n)
  | .fin n m _, .inf x => if m = 0 then .nan else .inf (x != n)
  | .fin na ma ea, .fin nb mb eb => .fin (na != nb) (ma * mb) (if ma * mb = 0 then 0 else ea + eb)

/-- Comparison of two values that are not NaN: less, equal, greater as -1, 0, 1; zeros are equal. -/
def fcmp (a b : FVal) : Int :=
  match a, b with
  | .inf x, .inf y => if x = y then 0 else if x then -1 else 1
  | .inf x, _ => if x then -1 else 1
  | _, .inf y => if y then 1 else -1
  | a, b =>
    let g := min a.pow b.pow
    let d := a.intAt g - b.intAt g
    if d < 0 then -1 else if d = 0 then 0 else 1

/-- Integer square root, bit by bit from bit `n - 1`. -/
def isqrt (x : Nat) : Nat → Nat → Nat
  | 0, r => r
  | n + 1, r => if (r + 2 ^ n) * (r + 2 ^ n) ≤ x then isqrt x n (r + 2 ^ n) else isqrt x n r

/-- `x` with a sticky bit below it. -/
def sticky (x : Nat) (inexact : Bool) : Nat := 2 * x + b2n inexact

/-- R379: 1 / a, exact to far below any rounding position, with a sticky bit. -/
def frcp (a : FVal) : FVal :=
  match a with
  | .nan => .nan
  | .inf n => fzero n
  | .fin n m e =>
    if m = 0 then .inf n
    else
      let k := Nat.log2 m + 60
      .fin n (sticky (2 ^ k / m) (2 ^ k % m != 0)) (-e - k - 1)

/-- A mantissa and an even power of two. -/
def evenPow (m : Nat) (e : Int) : Nat × Int := if e % 2 = 0 then (m, e) else (2 * m, e - 1)

/-- R379: the square root of a. -/
def fsqrt (a : FVal) : FVal :=
  match a with
  | .nan => .nan
  | .inf n => if n then .nan else .inf false
  | .fin n m e =>
    if m = 0 then fzero n
    else if n then .nan
    else
      let (m, e) := evenPow m e
      let x := m <<< 128
      let r := isqrt x (Nat.log2 x / 2 + 1) 0
      .fin false (sticky r (r * r != x)) (e / 2 - 64 - 1)

/-- R379: 1 / sqrt a. -/
def frsq (a : FVal) : FVal :=
  match a with
  | .nan => .nan
  | .inf n => if n then .nan else fzero false
  | .fin n m e =>
    if m = 0 then .inf n
    else if n then .nan
    else
      let (m, e) := evenPow m e
      let k := Nat.log2 m + 64
      let x := 2 ^ (2 * k) / m
      let r := isqrt x (Nat.log2 x / 2 + 1) 0
      .fin false (sticky r (r * r * m != 2 ^ (2 * k))) (-(e / 2) - k - 1)

/-- R381: rounded to an integral value in `mode`; zeros and infinities stand. -/
def frndInt (mode : Nat) (a : FVal) : FVal :=
  match a with
  | .fin n m e => if m = 0 then a else .fin n (roundAt n m e 0 mode) 0
  | _ => a

/-! ## Transcendentals (R380) -/

/-- Bits of the fixed point used below. -/
def fixBits : Nat := 112

/-- ln 2 * 2^112. -/
def fixLn2 : Nat := 3599025928123676973540407451845618
/-- log2 e * 2^112. -/
def fixLog2e : Nat := 7490900928631539394323262730195514
/-- pi * 2^112. -/
def fixPi : Nat := 16312081666030376401667486162748272

/-- Product in fixed point. -/
def fmulFix (a b : Nat) : Nat := (a * b) >>> fixBits

/-- Sum of z^k / k! from term `t` of index `k`, `n` terms. -/
def expSeries (z : Nat) : Nat → Nat → Nat → Nat
  | 0, _, _ => 0
  | n + 1, k, t => t + expSeries z n (k + 1) (fmulFix t z / (k + 1))

/-- 2^r for r in [0, 1), in fixed point. -/
def exp2Fix (r : Nat) : Nat := expSeries (fmulFix r fixLn2) 40 0 (2 ^ fixBits)

/-- Sum of t^(2k+1) / (2k+1). -/
def atanhSeries (t2 : Nat) : Nat → Nat → Nat → Nat
  | 0, _, _ => 0
  | n + 1, k, t => t / (2 * k + 1) + atanhSeries t2 n (k + 1) (fmulFix t t2)

/-- log2 y for y in [1, 2), in fixed point. -/
def log2Fix (y : Nat) : Nat :=
  let t := ((y - 2 ^ fixBits) <<< fixBits) / (y + 2 ^ fixBits)
  fmulFix (2 * atanhSeries (fmulFix t t) 40 0 t) fixLog2e

/-- Alternating sum of z^(2k+1) / (2k+1)!, as added and subtracted parts. -/
def sinSeries (z2 : Nat) : Nat → Nat → Nat → Int
  | 0, _, _ => 0
  | n + 1, k, t => (t : Int) - sinSeries z2 n (k + 1) (fmulFix t z2 / ((2 * k + 2) * (2 * k + 3)))

/-- The integer part of x and the fraction in fixed point, rounding the fraction down: x = i + f / 2^112. -/
def splitFix (neg : Bool) (m : Nat) (e : Int) : Int × Nat :=
  let x : Int := if 0 ≤ e + fixBits then ((m <<< (e + fixBits).toNat : Nat) : Int) else ((m >>> (-(e + fixBits)).toNat : Nat) : Int)
  let x := if neg then -x else x
  (x / (2 ^ fixBits : Nat), (x % (2 ^ fixBits : Nat)).toNat)

/-- sin(pi a) for a = m * 2^e in [0, 1/2]; a small one as pi a times 1 - (pi a)^2 / 6. -/
def sinPi (m : Nat) (e : Int) : FVal :=
  let z := fmulFix (shiftI m (e + fixBits)) fixPi
  if m = 0 then fzero false
  else if expOf m e < -30 then .fin false (m * fixPi * (2 ^ fixBits - fmulFix z z / 6)) (e - 2 * fixBits)
  else .fin false (sinSeries (fmulFix z z) 24 0 z).toNat (-(fixBits : Int))

/-- exp(-2 x) for x = m * 2^e ≥ 0 below 64, in fixed point. -/
def expNeg2 (m : Nat) (e : Int) : Nat :=
  let y := fmulFix (shiftI m (e + 1 + fixBits)) fixLog2e
  let i := y >>> fixBits
  let r := y % 2 ^ fixBits
  if r = 0 then (2 ^ fixBits) >>> i else exp2Fix (2 ^ fixBits - r) >>> (i + 1)

/-- The five functions of R380. -/
inductive Trans where
  /-- 2^x. -/
  | exp2
  /-- log2 x. -/
  | log2
  /-- tanh x. -/
  | tanh
  /-- sin(pi x). -/
  | sin
  /-- cos(pi x). -/
  | cos
  deriving DecidableEq, Repr

/-- A number for the opaque error function. -/
def Trans.code : Trans → Nat
  | .exp2 => 0
  | .log2 => 1
  | .tanh => 2
  | .sin => 3
  | .cos => 4

/-- x modulo 2 for a finite x, as a non-negative mantissa at the same power of two (or at 0 if that is larger). -/
def mod2 (neg : Bool) (m : Nat) (e : Int) : Nat × Int :=
  let (m, e) := if 0 < e then (m <<< e.toNat, (0 : Int)) else (m, e)
  let two := 2 <<< (-e).toNat
  let r := m % two
  (if neg && r != 0 then two - r else r, e)

/-- sin(pi x) for x = m * 2^e in [0, 2): exact where R380 says so. -/
def sinPi2 (m : Nat) (e : Int) : FVal :=
  let one := 1 <<< (-e).toNat
  let (neg, m) := if one ≤ m then (true, m - one) else (false, m)
  let m := if one < 2 * m then one - m else m
  if m = 0 then fzero false
  else if 2 * m = one then .fin neg 1 0
  else
    match sinPi m e with
    | .fin _ y k => .fin neg y k
    | v => v

/-- R380: the value where it is exact, or a value within 2^-80 of it, relatively, with `false`. -/
def Trans.approx (f : Trans) (x : FVal) : FVal × Bool :=
  match x with
  | .nan => (.nan, true)
  | .inf n =>
    match f with
    | .exp2 => (if n then fzero false else .inf false, true)
    | .log2 => (if n then .nan else .inf false, true)
    | .tanh => (.fin n 1 0, true)
    | _ => (.nan, true)
  | .fin n m e =>
    match f with
    | .exp2 =>
      if m = 0 then (.fin false 1 0, true)
      else if 9 < expOf m e then (if n then .fin false 1 (-1000) else .fin false 1 1000, false)
      else
        let (i, r) := splitFix n m e
        if r = 0 && (0 ≤ e || m % 2 ^ (-e).toNat == 0) then (.fin false 1 i, -149 ≤ i && i ≤ 127)
        else (.fin false (exp2Fix r) (i - fixBits), false)
    | .log2 =>
      if m = 0 then (.inf true, true)
      else if n then (.nan, true)
      else
        let k := expOf m e
        if m = 2 ^ Nat.log2 m then (if k = 0 then fzero false else ofInt k 0, true)
        else (ofInt (k * (2 ^ fixBits : Nat) + log2Fix (shiftI m (fixBits - (Nat.log2 m : Int)))) (-(fixBits : Int)), false)
    | .tanh =>
      if m = 0 then (x, true)
      else if expOf m e < -13 then
        (.fin n ((315 * m * 2 ^ (-6 * e).toNat + 42 * m ^ 5 * 2 ^ (-2 * e).toNat -
            (105 * m ^ 3 * 2 ^ (-4 * e).toNat + 17 * m ^ 7)) * (2 ^ fixBits / 315)) (7 * e - fixBits), false)
      else if 5 < expOf m e then (.fin n (2 ^ fixBits - 1) (-(fixBits : Int)), false)
      else
        let q := expNeg2 m e
        (.fin n (((2 ^ fixBits - q) <<< fixBits) / (2 ^ fixBits + q)) (-(fixBits : Int)), false)
    | .sin =>
      if m = 0 then (x, true)
      else
        let (r, k) := mod2 n m e
        match sinPi2 r k with
        | .fin s y j =>
          if y = 0 then (fzero n, true)
          else (.fin s y j, y == 1 && j == 0)
        | v => (v, true)
    | .cos =>
      if m = 0 then (.fin false 1 0, true)
      else if expOf m e < -60 then (.fin false (2 ^ fixBits - 1) (-(fixBits : Int)), false)
      else
        let (r, k) := mod2 n m e
        let (r, k) := if k = 0 then (2 * r, (-1 : Int)) else (r, k)
        let half := 1 <<< (-k - 1).toNat
        let (r, k) := mod2 false (r + half) k
        match sinPi2 r k with
        | .fin s y j => if y = 0 then (fzero false, true) else (.fin s y j, y == 1 && j == 0)
        | v => (v, true)

/-- R380: the real number that the part rounds: the exact value, or the approximation moved by the part's own error, which
stays one unit inside 2^-22 * max(|f|, 2^-126), so that it meets the bound with the approximation's error (log 6). -/
def Trans.value (f : Trans) (bits : Word32) (mode : Nat) (lfmt : Word32) (x : FVal) : FVal :=
  match f.approx x with
  | (.fin n m e, false) =>
    let k := Config.transcendentalError f.code bits mode lfmt
    let lim : Int := 2 ^ 40 - 1
    let k := if k < -lim then -lim else if lim < k then lim else k
    let big := m != 0 && decide (-126 ≤ expOf m e)
    let u : Nat × Int := if big then (m, e - 62) else (1, -126 - 62)
    let g := min e u.2
    let y := (FVal.fin n m e).intAt g + k * ((u.1 <<< (u.2 - g).toNat : Nat) : Int)
    if y = 0 then fzero n else ofInt y g
  | (v, _) => v

/-! ## Tags (R263) -/

/-- An operand: its value and its tag, already capped at p. -/
structure TVal where
  /-- Value. -/
  v : FVal
  /-- Tag. -/
  s : Nat
  deriving DecidableEq, Repr

/-- R263: TagAdd for a finite non-zero result of exponent `er`. -/
def tagAdd (p : Nat) (er : Int) (ops : List TVal) : Nat :=
  let u := ops.foldl (fun (u : Int) o => if o.v.isNZ then max u (o.v.E - o.s) else u) (er - p)
  let s := ops.foldl (fun (s : Int) o => if o.v.isZero && o.s < p then min s o.s else s) (er - u)
  s.toNat

/-- R263: TagMul. -/
def tagMul (p a b : Nat) : Nat :=
  let m := min a b
  if (a - b) + (b - a) ≤ 1 && m < p then m - 1 else m

/-- R263, steps 1-3 and 6 about the rule tag `s`: `exact` is the unrounded value, `r` the rounded one. -/
def tagSteps (f : Fmt) (exact : FVal) (r : Rounded) (s : Nat) : Nat :=
  if r.val.isSpecial then 0
  else if r.sat then 0
  else if r.val.isZero then (if exact.isZero then min s f.p else 0)
  else
    let s := min s f.p
    if r.val.E < f.emin then min s (r.val.E - f.q + 1).toNat else s

/-- R263 step 4: the tag of an exact zero sum. -/
def tagZeroSum (p : Nat) (ops : List TVal) : Nat := if ops.all (fun o => o.s = p) then p else 0

/-- The tag of a sum of these operands. -/
def tagOfSum (f : Fmt) (exact : FVal) (r : Rounded) (ops : List TVal) : Nat :=
  if exact.isZero then tagSteps f exact r (tagZeroSum f.p ops) else tagSteps f exact r (tagAdd f.p r.val.E ops)

/-! ## Integers and E8M0 -/

/-- R252: a value rounded to an integer in `mode` and saturated to [lo, hi]; NaN is 0. -/
def toIntSat (mode : Nat) (lo hi : Int) (v : FVal) : Int :=
  match v with
  | .nan => 0
  | .inf n => if n then lo else hi
  | .fin n m e =>
    let y : Int := (roundAt n m e 0 mode : Nat)
    let y := if n then -y else y
    if y < lo then lo else if hi < y then hi else y

/-- R251: conversion to E8M0. -/
def toE8m0 (v : FVal) : Nat :=
  match v with
  | .fin _ m e => if m = 0 then 0 else (min 254 (max 0 (expOf m e + 127))).toNat
  | _ => 0xFF

/-- R251: the value of an E8M0 encoding. -/
def ofE8m0 (x : Nat) : FVal := if x = 0xFF then .nan else .fin false 1 ((x : Int) - 127)

/-- R252: the range of an integer format code. -/
def intRange (code : Nat) : Int × Int :=
  match code with
  | 0xA => (-128, 127)
  | 0xB => (-32768, 32767)
  | 0xC => (-2147483648, 2147483647)
  | _ => (0, 255)

/-- `v` times a power of two. -/
def FVal.scale (k : Int) : FVal → FVal
  | .fin n m e => .fin n m (if m = 0 then e else e + k)
  | v => v

/-! ## Block scaling (R257-R261) -/

/-- R258: emax of an element format; 9 is NP. -/
def emaxElem (code : Nat) : Int :=
  match code with
  | 4 => 8
  | 5 => 15
  | 6 => 2
  | 7 => 4
  | 8 => 2
  | _ => 6

/-- R258: one element of a block of scale `X`: its value as encoded and whether it saturated. -/
def quantElem (code : Nat) (x : FVal) (scale : Nat) : Rounded :=
  let y := x.scale (127 - (scale : Int))
  if code = 9 then
    match y with
    | .fin n m e =>
      let r : Int := (roundAt n m e 0 0 : Nat)
      let r := if n then -r else r
      if r < -128 then ⟨ofInt (-128) 0, true⟩ else if 127 < r then ⟨ofInt 127 0, true⟩
      else if r = 0 then ⟨fzero n, false⟩ else ⟨ofInt r 0, false⟩
    | .inf n => ⟨ofInt (if n then -128 else 127) 0, true⟩
    | .nan => ⟨fzero false, false⟩
  else
    let f := fmtOf code
    match y with
    | .fin n m e =>
      if m = 0 then ⟨fzero n, false⟩
      else
        let g := max (expOf m e - f.fb) f.q
        let r := roundAt n m e g 0
        if !leMag r g f.maxM f.maxE then ⟨f.maxVal n, true⟩ else if r = 0 then ⟨fzero n, false⟩ else ⟨.fin n r g, false⟩
    | .inf n => ⟨f.maxVal n, true⟩
    | .nan => ⟨fzero false, false⟩

/-- R258: the encoding of a quantised element; NP is an 8-bit integer. -/
def quantCode (code : Nat) (v : FVal) : Nat :=
  if code = 9 then (BitVec.ofInt 8 (v.intAt (min 0 v.pow))).toNat else (fmtOf code).encode v

/-- R258: the scale of a block. -/
def blockScale (code : Nat) (xs : List FVal) : Nat :=
  if xs.any (·.isSpecial) then 0xFF
  else
    let big := xs.foldl (fun (b : Option Int) x => if x.isNZ then some (max (b.getD x.E) x.E) else b) none
    match big with
    | none => 0
    | some e => (max (-127) (min 127 (e - emaxElem code)) + 127).toNat

/-- R258: quantise a block: the scale and the elements. -/
def quantBlock (code : Nat) (xs : List FVal) : Nat × List Rounded :=
  let X := blockScale code xs
  if X = 0xFF then (X, xs.map fun _ => ⟨fzero false, false⟩)
  else if xs.all (fun x => !x.isNZ) then (X, xs.map fun x => ⟨fzero x.neg?, false⟩)
  else (X, xs.map fun x => quantElem code x X)

/-- R261: the value of an NP element whose eight bits are `d`, read with `k` planes, before its scale. -/
def npValue (d k : Nat) : FVal :=
  let t : Int := (BitVec.ofNat k (d / 2 ^ (8 - k))).toInt
  if k < 8 then ofInt (t * 2 ^ (8 - k) + 2 ^ (7 - k)) 0 else ofInt t 0

end Sys2Proof.Machine
end

