-- ==== Sys2Proof/Machine/Regions.lean ====
section
/-! DEFINITION. Sys2Proof/Machine/Regions.lean: precision regions (R192-R228, R362-R365): opening, the checkpoint, the
Locus table, trips, abort and restart, closing and commit, and the instructions and events that drive them. -/

namespace Sys2Proof.Machine

/-! ## Descriptors -/

/-- How a read of blocks of a descriptor ends. -/
inductive BlockRead where
  /-- All the blocks asked for: the words so far. -/
  | words (ws : List Word) (s : State)
  /-- A block waits for its translation: the words before it. -/
  | busy (ws : List Word) (s : State)
  /-- A failing check, with its address. -/
  | fail (cause : BitVec 8) (addr : Word)

/-- Read `n` more blocks of 16 bytes of a descriptor as ordinary loads of the acting group (R193, R345), after the words
read so far. -/
def State.readBlocks (addr : Word) : Nat → State → List Word → BlockRead
  | 0, s, ws => .words ws s
  | n + 1, s, ws =>
    let a := addr + BitVec.ofNat 64 (8 * ws.length)
    match s.check s.g.team a 16 .read false with
    | .fault c => .fail c a
    | .busy => .busy ws s
    | .ok t marks skip starve =>
      let s := ((s.applyMarks marks skip starve).holdLine s.g.part t false).syncRead t
      let lo := bytesWord (s.groupRead t.loc 8)
      let hi := bytesWord (s.groupRead (t.loc + 8) 8)
      State.readBlocks addr n (s.noteAccess 32 a t.loc 16 true false) (ws ++ [lo, hi])

/-- The words of a descriptor that the acting group's control stream has read. -/
def State.midDesc (s : State) : List Word :=
  match s.midOf true with
  | some { body := .desc ws, .. } => ws
  | _ => []

/-- R193, R345: the instruction waits with these words of its descriptor read. -/
def State.descWait (s : State) (ws : List Word) (w : Wait) : Res :=
  if ws.isEmpty then s.ctlWait w else (s.setMid true (.desc ws)).ctlWait w

/-- R193, R345: the four loads of a descriptor, each at a point of its own: other accesses may come between two of them
(`r` gets the eight words). -/
def State.readDesc (s : State) (addr : Word) (r : List Word → State → Res) : Res :=
  let got := s.midDesc
  match State.readBlocks addr (min (s.limit.getD 4) (4 - got.length / 2)) (s.clearMid true) got with
  | .busy ws s => s.descWait ws .translate
  | .fail c a => (s.clearMid true).fault c a 32
  | .words d s => if 8 ≤ d.length then r d s else s.descWait d .portBusy

/-- Word `i` of a descriptor. -/
def dword (d : List Word) (i : Nat) : Word := d.getD i 0

/-- NRUNG. -/
def descNrung (d : List Word) : Nat := field (dword d 1) 40 3
/-- MAXREP. -/
def descMaxrep (d : List Word) : Nat := field (dword d 1) 48 8
/-- TOPACT. -/
def descTopact (d : List Word) : Nat := field (dword d 1) 32 2
/-- EMAX. -/
def descEmax (d : List Word) : Int := (BitVec.ofNat 16 (field (dword d 1) 16 16)).toInt
/-- EMIN. -/
def descEmin (d : List Word) : Int := (BitVec.ofNat 16 (field (dword d 1) 0 16)).toInt
/-- EMAX = 0x7FFF turns the ceiling off. -/
def descNoCeiling (d : List Word) : Bool := field (dword d 1) 16 16 == 0x7FFF
/-- UBUDGET. -/
def descUbudget (d : List Word) : Nat := field (dword d 2) 32 32
/-- SMIN. -/
def descSmin (d : List Word) : Nat := field (dword d 2) 16 6
/-- SMARGIN. -/
def descSmargin (d : List Word) : Nat := field (dword d 2) 8 6
/-- EMARGIN. -/
def descEmargin (d : List Word) : Nat := field (dword d 2) 0 8
/-- RUNGn. -/
def descRung (d : List Word) (n : Nat) : Word32 := BitVec.ofNat 32 (field (dword d (3 + n / 2)) (32 * (n % 2)) 32)

/-- R267: the classes of matrix operands: 0 Narrow, 1 Half, 2 Single, 3 Double. -/
def matClass (f : Nat) : Nat :=
  if f = 0 then 2 else if f = 1 then 3 else if f ≤ 3 then 1 else 0

/-- FA, FB, PA, PB, ACC and ORD of a rung entry (R194). -/
def rungFields (e : Word32) : Nat × Nat × Nat × Nat × Nat × Nat :=
  ((e.extractLsb' 0 4).toNat, (e.extractLsb' 4 4).toNat, (e.extractLsb' 8 4).toNat, (e.extractLsb' 12 4).toNat,
    (e.extractLsb' 16 3).toNat, (e.extractLsb' 19 2).toNat)

/-- R194, R267: a rung entry that MMA accepts. -/
def rungOk (e : Word32) : Bool :=
  let (fa, fb, pa, pb, acc, ord) := rungFields e
  let planes := fun (f p : Nat) => if f = 9 then 1 ≤ p && p ≤ 8 else p == 0
  let c := matClass fa
  e.extractLsb' 21 11 == 0#11 && ord ≤ 1 && fa ≤ 9 && fb ≤ 9 && planes fa pa && planes fb pb && c == matClass fb &&
  (if c ≤ 1 then acc == 0 || acc == 2 else if c = 2 then acc ≤ 2 else acc == 1)

/-- R195: the region descriptor's fields. -/
def regionDescOk (d : List Word) : Bool :=
  let w1 := dword d 1
  let w2 := dword d 2
  field w1 56 8 == 0 && field w1 43 5 == 0 && field w1 34 6 == 0 && field w2 22 10 == 0 && field w2 14 2 == 0 &&
  dword d 7 == 0 && 1 ≤ descNrung d && descNrung d ≤ 6 && descTopact d ≤ 2 && descSmin d ≤ 53 && descSmargin d ≤ 53 &&
  descEmin d ≤ descEmax d && (List.range (descNrung d)).all fun n => rungOk (descRung d n)

/-! ## The Locus table -/

/-- R221: v of a key. -/
def locusKey (dkey hkey rid : Nat) : Word := BitVec.ofNat 64 ((dkey ^^^ hkey) * 2 ^ 32 + rid)

/-- R221: the set of a key. -/
def locusSet (v : Word) : Nat :=
  (List.range 7).foldl (fun x i => x ^^^ field v (10 * i) (min 10 (64 - 10 * i))) 0

/-- R221: the way that holds `v`, with its entry. -/
def Partition.locusFind (p : Partition) (v : Word) : Option (Nat × LocusEntry) :=
  (List.range 4).findSome? fun w =>
    match SMap.find? p.locus (locusSet v * 4 + w) with
    | some e => if e.v = v then some (locusSet v * 4 + w, e) else none
    | none => none

/-- R221: the way an update that misses takes. -/
def Partition.locusVictim (p : Partition) (v : Word) : Nat :=
  let keys := (List.range 4).map (locusSet v * 4 + ·)
  match keys.find? fun k => (SMap.find? p.locus k).isNone with
  | some k => k
  | none =>
    let age := fun k => ((SMap.find? p.locus k).map (·.used)).getD 0
    keys.foldl (fun b k => if age k < age b then k else b) (locusSet v * 4)

/-- R221: a lookup, which refreshes recency. -/
def Partition.locusLookup (p : Partition) (v : Word) : Option LocusEntry × Partition :=
  match p.locusFind v with
  | none => (none, p)
  | some (k, e) =>
    (some e, { p with locus := p.locus.put k { e with used := p.locusClock }, locusClock := p.locusClock + 1 })

/-- R221, R222: an update. -/
def Partition.locusUpdate (p : Partition) (v : Word) (f : LocusEntry → LocusEntry) : Partition :=
  let (k, e) := (p.locusFind v).getD (p.locusVictim v, { v, rung := 0, conf := 0, trips := 0, used := 0 })
  { p with locus := p.locus.put k { f e with used := p.locusClock }, locusClock := p.locusClock + 1 }

/-- R224: the word of an entry. -/
def locusWord (e : Option LocusEntry) : Word :=
  match e with
  | none => 0
  | some e => word [at_ 1 16, at_ e.trips.toNat 8, at_ e.conf.toNat 3, at_ e.rung.toNat 0]

/-- The launch of a team. -/
def State.launchOf (s : State) (t : Team) : Option Launch := (s.part t.part).launches.find? (·.id == t.launch)

/-- R221: HKEY, 0 in a merged launch. -/
def State.hkeyOf (s : State) (t : Team) : Nat :=
  match s.launchOf t with
  | some l => if l.slot.isSome then 0 else l.hkey.toNat
  | none => 0

/-- R221: v of a team's region whose first descriptor word is `w`. -/
def State.keyOf (s : State) (t : Team) (w : Word) : Word := locusKey (field w 32 32) (s.hkeyOf t) (field w 0 32)

/-- R222: the update of a trip at rung `r` of a ladder of `n`. -/
def locusTrip (r n : Nat) (e : LocusEntry) : LocusEntry :=
  { e with rung := BitVec.ofNat 3 (min (r + 1) (n - 1)), conf := 0, trips := if e.trips = 255 then 255 else e.trips + 1 }

/-- R222: inside the margins.  DESIGN CHOICE: where MAXEXP is none no exponent is outside, and UFLOW counts unsaturated
(log 114). -/
def Region.insideMargins (r : Region) : Bool :=
  let d := r.desc
  (descNoCeiling d || (match r.maxExp with
    | some e => decide (e ≤ descEmax d - descEmargin d)
    | none => true)) &&
  r.uflow ≤ descUbudget d / 2 && (descSmin d == 0 || descSmin d + descSmargin d ≤ r.minTag.toNat)

/-- R222: the update of a commit. -/
def locusCommit (r : Region) (e : LocusEntry) : LocusEntry :=
  if e.conf ≠ 3 then { e with rung := BitVec.ofNat 3 r.rung, conf := e.conf + 1 }
  else if r.insideMargins && 0 < r.rung then { e with rung := BitVec.ofNat 3 (r.rung - 1), conf := 0 }
  else { e with rung := BitVec.ofNat 3 r.rung }

/-! ## Version and shadow lines (R202-R204) -/

/-- R17: the home slice of an HBM line, die * 32 + slice, or a number for the port agent of a second-tier line: one for
each LPDDR site and each CXL port (R16). -/
def homeSlice (ilv : BitVec 1) (pa : Nat) : Nat :=
  if inHbm pa then
    let low := pa / 128 % 32
    if ilv = 0 then
      let g := pa / 4096
      (g % 4) * 32 + (low ^^^ (g / 12 % 32))
    else
      let d := pa / 0x2CB4178000
      let h := (pa % 0x2CB4178000) / 4096
      d * 32 + (low ^^^ (h / 3 % 32))
  else if pa < 0x2000000000000 then 128 + (pa - 0x1000000000000) / 2 ^ 40
  else 136 + (pa - 0x2000000000000) / 2 ^ 42

/-- Every uncommitted speculative region of the machine, with its team. -/
def State.specRegions (s : State) : List (Nat × Region) :=
  (s.teams.filter fun x => x.2.phase != .saved).flatMap fun (k, t) =>
    ((t.openRegion.toList ++ t.pending.toList).filter (·.spec)).map fun r => (k, r)

/-- The core that holds a scratchpad location. -/
def State.spadCore (s : State) (loc : Nat) : Nat := (s.teams.get {} ((loc - spadBase) / 2 ^ 24)).core

/-- R196, R204: shadow lines in use at a core: five for each group's checkpoint, one for the team's, and the
pre-images. -/
def State.shadowLines (s : State) (core : Nat) : Nat :=
  s.specRegions.foldl (fun n (k, r) =>
    n + (if (s.teams.get {} k).core = core then 5 * r.ckpt.length + 1 else 0) +
    (overlayLines r.writes fun l => decide (spadBase ≤ l) && s.spadCore l == core).length) 0

/-- R204: version lines in use at a home slice or port agent. -/
def State.versionLines (s : State) (slice : Nat) : Nat :=
  s.specRegions.foldl (fun n (k, r) =>
    n + (overlayLines r.writes fun l => decide (l < hostBase) && homeSlice (s.part (s.teams.get {} k).part).ilv l == slice).length) 0

/-- R204: region `r` of a team can take a version or shadow line for a write at `loc`. -/
def State.lineRoom (s : State) (team : Nat) (r : Region) (loc : Nat) : Bool :=
  if r.writes.any fun c => c.1 / 128 == loc / 128 then true
  else if spadBase ≤ loc then s.shadowLines (s.spadCore loc) < 2048
  else if loc < hostBase then s.versionLines (homeSlice (s.part (s.teams.get {} team).part).ilv loc) < 8192
  else true

/-! ## Opening -/

/-- R117, R145: the lane queue is empty and the lane stream idle. -/
def Group.laneIdle (g : Group) : Bool := g.lq.isEmpty && !g.running

/-- R126, R144, R336: what LSYNC waits for. -/
def Group.synced (g : Group) : Bool := if g.inHandler then g.handlerBlock.isNone && !g.running else g.laneIdle

/-- Keys of the team's groups that have not executed END. -/
def State.partners (s : State) (team : Nat) : List Nat := (s.groupsOf team).filter fun k => !(s.groups.get {} k).ended

/-- The descriptor that partners of the acting group wait with at PBEGIN. -/
def State.waitingAt (s : State) : Option Word :=
  (s.groupsOf s.g.team).findSome? fun k => if k = s.actor then none else (s.groups.get {} k).atPbegin

/-- R192: every partner has reached PBEGIN and completed its waits.  One that is stopped there does not complete it
(R275). -/
def State.allAtPbegin (s : State) : Bool :=
  (s.partners s.g.team).all fun k =>
    let g := s.groups.get {} k
    g.atPbegin.isSome && g.laneIdle && g.gl.isEmpty && g.sp.isEmpty && g.wakeable

/-- R199: clear the written bit of every slot. -/
def Team.clearWritten (t : Team) : Team := { t with slots := t.slots.map fun x => (x.1, { x.2 with written := false }) }

/-- R196: a group's checkpoint at the instruction after PBEGIN. -/
def Group.checkpoint (g : Group) : GroupCheckpoint :=
  { k := g.k, c := g.c, fmt := g.fmt, cpc := g.cpc + 4, past := g.past, behind := g.behind }

/-- R196: the version shadow of the team's core can take the checkpoint: five lines for each partner (log 95) and one for
the team. -/
def State.ckptRoom (s : State) : Bool := s.shadowLines s.t.core + 5 * (s.partners s.g.team).length + 1 ≤ 2048

/-- R196, R197, R220: the region opens with a descriptor that has passed its checks.  One that cannot take its checkpoint
opens non-speculatively; behind a pending region it waits, as after an abort, until that region has committed. -/
def State.openWith (s : State) (addr : Word) (d : List Word) (rsw : Option Target) : State :=
  let t := s.t
  let waits := !s.ckptRoom && t.pending.isSome
  let keys := s.partners s.g.team
  let (e, p) := s.p.locusLookup (s.keyOf t (dword d 0))
  let top := descNrung d - 1
  let rung := match e with
    | some e => min e.rung.toNat top
    | none => 0
  let room := s.ckptRoom
  let rung := if room then rung else top
  let r : Region := { id := t.nextRegion, addr, desc := d, rung, start := rung, hit := e.isSome && room, spec := room, rsw
                      ckpt := keys.foldl (fun m k => m.put (k % 32) (s.groups.get {} k).checkpoint) []
                      ckptBars := t.bars }
  let s := (s.setP p).setT { t.clearWritten with
    openRegion := some r, nextRegion := t.nextRegion + 1, restart := if waits then some true else t.restart }
  foldState (s.inTurn true keys) s fun k s =>
    (s.mapGroup k fun g => { g.completeWait with atPbegin := none, restarting := waits }).waitIssued k

/-- R193-R195: read and check the descriptor, and open the region. -/
def State.openRegionAt (s : State) (addr : Word) : Res :=
  if addr.toNat % 64 != 0 then s.fault causeMisaligned addr 32
  else
    s.readDesc addr fun d s =>
      if !regionDescOk d then s.fault causeIllegalOp addr 0
      else if dword d 6 = 0 then .next (s.openWith addr d none)
      else
        match s.check s.g.team (dword d 6) 8 .write false with
        | .fault c => s.fault c (dword d 6) 32
        | .busy => s.descWait d .translate
        | .ok t marks skip starve => .next ((s.applyMarks marks skip starve).openWith addr d (some t))

/-- R192, R362: PBEGIN. -/
def execPbegin (a : BitVec 6) (s : State) : Res :=
  let g := s.g
  if g.inHandler || g.tx.depth != 0 then s.fault causeRegionEffect 0 0
  else if s.t.openRegion.isSome then
    if g.closed.isSome then s.ctlWait .regionCommit else s.fault causeRegionNest 0 0
  else
    let addr := if g.getK a = 0 then s.t.type.ldef else g.getK a
    if addr = 0 then s.illegal
    else
      match s.waitingAt with
      | some x => if x ≠ addr then s.fault causeRegionMismatch x 0 else arrive g addr
      | none => arrive g addr
where
  /-- The group stands at PBEGIN. -/
  arrive (g : Group) (addr : Word) : Res :=
    let s := s.setG { g with atPbegin := some addr }
    if !g.laneIdle then s.ctlWait .cqWait
    else if !g.gl.isEmpty then s.ctlWait .cwaitGl
    else if !g.sp.isEmpty then s.ctlWait .cwaitSp
    else if s.allAtPbegin then
      match g.acqHold with
      | some w => s.ctlWait w
      | none => s.openRegionAt addr
    else s.ctlWait .lqEmpty

/-! ## Abort and restart (R210-R213, R220) -/

/-- Remove engine commands of a team and give their barriers the effect of R141. -/
def State.cancelCommands (s : State) (team : Nat) (p : Cmd → Bool) : State :=
  let c := (s.teams.get {} team).core
  let hit := fun (x : Cmd) => x.team == team && p x
  let gone := ((s.core c).copyQ ++ (s.core c).matQ).filter hit
  let s := s.setCore c { s.core c with copyQ := (s.core c).copyQ.filter fun x => !hit x
                                       matQ := (s.core c).matQ.filter fun x => !hit x }
  foldState gone s fun x s =>
    match x.bar with
    | some b => if x.holdsRef then s.cancelBar team b else s
    | none => s

/-- A region between its abort and its restart: no write of it remains. -/
def Region.emptied (r : Region) (touched : BitVec 16) : Region :=
  { r with writes := [], trip := none, starved := false, touched := r.touched ||| touched }

/-- GID of a team's group 0. -/
def State.gid0 (s : State) (team : Nat) : Nat := s.gid (s.groups.get {} (team * 32))

/-- R288: the abort of a team's region is traced. -/
def State.traceAbort (s : State) (team : Nat) (r : Region) : State :=
  let t := s.teams.get {} team
  s.traceEvent t.part (dieOf t.core) 0x13 (s.gid0 team + r.rung * 2 ^ 14) none

/-- R202: the scratchpad lines of these regions are written back. -/
def State.restoreLines (s : State) (rs : List Region) : State :=
  foldState (rs.flatMap fun r => overlayLines r.writes fun l => decide (spadBase ≤ l)) s fun l s => s.wakeWatchers (l * 128)

/-- R211 steps 1, 2 and 4, R216: the pending region aborts and squashes the one behind it, or the open region aborts
alone; `r` is the region as it is to restart, non-speculatively under `ns`. -/
def State.abortRegion (s : State) (team : Nat) (r : Region) (ns : Bool) : State :=
  let t := s.teams.get {} team
  let ahead := t.pending.any (·.id == r.id)
  let ids := if ahead then r.id :: (t.openRegion.map (·.id)).toList else [r.id]
  let touched := if ahead then (t.openRegion.map (·.touched)).getD 0 else 0
  let live := t.pending.toList ++ if t.restart.isNone then t.openRegion.toList else []
  let gone := live.filter fun x => ids.contains x.id
  let s := (foldState gone s fun x s => s.traceAbort team x).restoreLines gone
  let s := s.cancelCommands team fun x => x.region.any fun i => ids.contains i
  let t := s.teams.get {} team
  let s := s.setTeam team { t with openRegion := some (r.emptied touched), restart := some ns
                                   pending := if ahead then none else t.pending }
  foldState (s.partners team) s fun k s =>
    s.mapGroup k fun g => { g with
      restarting := true, cwait := none, lwait := none, walking := 0, threshold := none, atBarrier := none, atPbegin := none }

/-- The record of a trip that the matrix engine raised. -/
def State.tripRecord (s : State) (r : Region) (info : Word) : StopRecord :=
  { src := 1, kind := 0, gid := r.tripGid
    words := [word [at_ causeRegionTrip.toNat 56, at_ 1 52, at_ r.tripGid 0], 0, 0, 0, r.addr, info, r.tripProg, s.nsNow] }

/-- R272: INFO of REGION_TRIP. -/
def tripInfo (r : Region) (mon : BitVec 2) : Word :=
  word [at_ (field (dword r.desc 0) 0 32) 0, at_ r.rung 32, at_ mon.toNat 36]

/-- R210: a trip is handled by an abort one rung up, rather than by the top-rung action. -/
def Region.canReplay (r : Region) : Bool := r.rung + 1 < descNrung r.desc && r.replays < descMaxrep r.desc

/-- A team's region stands as `r` says. -/
def State.putRegion (s : State) (team : Nat) (r : Region) : State :=
  let t := s.teams.get {} team
  s.setTeam team (if t.pending.any (·.id == r.id) then { t with pending := some r } else { t with openRegion := some r })

/-- R210, R213, R222: a trip of region `r` of a team with monitor `mon`; `halt` halts the context for TOPACT TRAP, with
the trip still noted, so that nothing is counted again. -/
def State.tripRegion (s : State) (team : Nat) (r : Region) (mon : BitVec 2) (halt : State → State) : State :=
  let t := s.teams.get {} team
  let p := (s.part t.part).locusUpdate (s.keyOf t (dword r.desc 0)) (locusTrip r.rung (descNrung r.desc))
  let s := s.setPart t.part p
  if r.canReplay then
    let s := s.setTeam team { t with replays := min 65535 (t.replays + 1) }
    s.abortRegion team { r with rung := r.rung + 1, replays := r.replays + 1, tripMon := mon } false
  else if descTopact r.desc = 0 then halt (s.putRegion team { r with trip := some mon })
  else s.putRegion team { r with flagged := true, tripMon := mon, trip := none }

/-- R228: the region whose trip is taken: the pending one's before the open one's. -/
def Team.tripped (t : Team) : Option Region :=
  match t.pending.filter (·.trip.isSome) with
  | some r => some r
  | none => t.openRegion.filter (·.trip.isSome)

/-- The partition of a team is not halted, so that what its regions do may go on (R227, R228). -/
def State.regionsRun (s : State) (team : Nat) : Bool :=
  (s.part (s.teams.get {} team).part).halt.isNone && (s.teams.get {} team).phase == .resident

/-- R276: the MMA that tripped a region has stopped with the halt. -/
def State.stopTripped (s : State) (team : Nat) (r : Region) : State :=
  let c := (s.teams.get {} team).core
  s.setCore c { s.core c with
    matQ := (s.core c).matQ.map fun x => if x.id = r.tripCmd then { x with stopped := true } else x }

/-- REGION_TRIP (R207, R210): the trip that a monitor recorded is handled. -/
def execRegionTrip (team : Nat) (s : State) : Res :=
  let t := s.teams.get {} team
  match t.tripped with
  | some r =>
    if !s.regionsRun team then .fault .notEnabled
    else
      let mon := r.trip.getD 0
      .next (s.tripRegion team r mon fun s =>
        (s.raiseHalt t.part causeRegionTrip (s.tripRecord r (tripInfo r mon))).stopTripped team r)
  | none => .fault .notEnabled

/-- R145, R198, R211: a group as it resumes at its checkpoint. -/
def Group.restart (g : Group) (x : GroupCheckpoint) : Group :=
  { g with
    k := x.k, c := x.c, fmt := x.fmt, cpc := x.cpc, past := x.past, behind := x.behind, lq := [], cq := [], running := false, stack := [], skip := 0, l := [], a := []
    inHandler := false, trapSlot := none, handlerBlock := none, heldTrap := none, cwait := none, lwait := none
    walking := 0, threshold := none, atBarrier := none, park := none, inCall := false, seen := [], atPbegin := none, closed := none, restarting := false }

/-- R201: touched barriers take their checkpoint values with REFS = 0. -/
def Region.restoreBars (r : Region) (bars : SMap Word) : SMap Word :=
  (List.range 16).foldl (fun m b =>
    if r.touched.getLsbD b then SMap.set 0 m b ({ barOf (r.ckptBars.get 0 b) with refs := 0 }.word) else m) bars

/-- A region as a new pass of it starts; what a top-rung action has marked stays marked (R213, log 96). -/
def Region.newPass (r : Region) (ns : Bool) : Region :=
  { r with rung := if ns then descNrung r.desc - 1 else r.rung, spec := !ns, minTag := 0x3F, maxExp := none, uflow := 0
           touched := 0, trip := none, starved := false }

/-- Every instruction in flight of these groups has completed. -/
def State.drained (s : State) (keys : List Nat) : Bool :=
  keys.all fun k =>
    let g := s.groups.get {} k
    g.gl.isEmpty && g.sp.isEmpty && g.st.isEmpty

/-- R211 steps 3, 5 and 6: the team stands at its checkpoint, at the start of a new pass. -/
def State.toCheckpoint (s : State) (team : Nat) (r : Region) (ns : Bool) : State :=
  let t := s.teams.get {} team
  let s := s.setTeam team
    { t.clearWritten with bars := r.restoreBars t.bars, openRegion := some (r.newPass ns), restart := none }
  foldState (r.ckpt.keys.map (team * 32 + ·)) s fun k s => s.mapGroup k fun g => g.restart (r.ckpt.get default (k % 32))

/-- R99: the team moves to the head of its core's queue. -/
def State.toHead (s : State) (team : Nat) : State :=
  let core := (s.teams.get {} team).core
  let c := s.core core
  s.setCore core { c with teamQ := team :: c.teamQ.filter (· != team) }

/-- REGION_RESTART (R211 steps 3, 5-7): the drains are over and the team resumes at its checkpoint.  A group that had
executed END before the region opened is no partner (R192): its lane blocks run on (log 97). -/
def execRegionRestart (team : Nat) (s : State) : Res :=
  let t := s.teams.get {} team
  match t.restart, t.openRegion with
  | some ns, some r =>
    if !s.regionsRun team || !s.drained (r.ckpt.keys.map (team * 32 + ·)) || (ns && t.pending.isSome) then .fault .notEnabled
    else .next ((s.toHead team).toCheckpoint team r ns)
  | _, _ => .fault .notEnabled

/-- SHADOW_FULL (R220, R228): a region that could not get a line aborts without a trip, to restart non-speculatively;
a trip goes first. -/
def execShadowFull (team : Nat) (s : State) : Res :=
  let t := s.teams.get {} team
  let hit := match t.pending.filter (·.starved) with
    | some r => some r
    | none => t.openRegion.filter (·.starved)
  match hit with
  | some r =>
    if !r.spec || t.tripped.isSome || !s.regionsRun team then .fault .notEnabled else .next (s.abortRegion team r true)
  | none => .fault .notEnabled

/-! ## Closing and commit (R215-R219) -/

/-- R215, R216: every group has closed the open region: it becomes pending where some group used PEND.A. -/
def State.closeAll (s : State) : State :=
  let keys := s.partners s.g.team
  let all := keys.all fun k => (s.groups.get {} k).closed.isSome
  let async := keys.any fun k => (s.groups.get {} k).closed == some false
  if all && async then
    let s := s.setT { s.t with pending := s.t.openRegion, openRegion := none }
    foldState keys s fun k s => s.mapGroup k fun g => { g with closed := g.closed.filter id }
  else s

/-- R200, R215, R216, R220: what both forms of PEND check first; `r` closes the region.  In a non-speculative one they
do not wait for the lane stream.  A group that has closed the region waits on; one that was stopped at PEND when it
committed completes the wait now (R275). -/
def State.closing (s : State) (r : Res) : Res :=
  if s.g.closed = some true then
    if s.t.openRegion.isNone && s.t.pending.isNone then s.ctlDone { s.g with closed := none } else s.ctlWait .regionCommit
  else
    match s.waitingAt with
    | some x => s.fault causeRegionMismatch x 0
    | none =>
      if s.regionHeld then s.ctlWait .regionCommit
      else
        match s.t.openRegion with
        | none => s.fault causeRegionNone 0 0
        | some x => if x.spec && !s.g.synced then s.ctlWait .regionCommit else r

/-- R363: PEND. -/
def execPend (s : State) : Res :=
  s.closing (.next (s.setG { s.g with closed := some true, cwait := some .regionCommit }).closeAll)

/-- R363: PEND.A. -/
def execPendA (s : State) : Res :=
  s.closing <|
    if s.t.pending.isSome then s.ctlWait .regionCommit
    else .next (s.setG { s.g with closed := some false, cpc := s.g.cpc + 4, cwait := none }).closeAll

/-- R218: the region status word. -/
def Region.status (r : Region) : Word :=
  let maxExp : BitVec 16 := match r.maxExp with
    | some e => BitVec.ofInt 16 e
    | none => 0x8000
  word [at_ (min 255 r.replays) 56, at_ r.rung 53, at_ r.start 50, at_ (b2n r.hit) 49, at_ (b2n (!r.spec)) 48,
    at_ (b2n r.flagged) 47, at_ (b2n r.sat) 46, at_ r.tripMon.toNat 44, at_ r.minTag.toNat 38, at_ maxExp.toNat 16,
    at_ (min 0xFFFF r.uflow) 0]

/-- R215: the work of a region has drained. -/
def State.regionDrained (s : State) (team : Nat) (r : Region) : Bool :=
  !((s.commandsOf team).any fun x => x.region == some r.id) &&
  (!r.spec || (s.groupsOf team).all fun k =>
    let g := s.groups.get {} k
    (g.gl ++ g.sp ++ g.st).all fun f => f.region != some r.id)

/-- R217: publish an overlay. -/
def State.publish (s : State) (w : List Host.Cell) : State :=
  foldState ((w.map (·.1 / 128)).eraseDups) { s with stores := w ++ s.stores } fun l s => s.wakeWatchers (l * 128)

/-- R217, R219, R222: region `r` of a team commits. -/
def State.commitRegion (s : State) (team : Nat) (r : Region) : State :=
  let t := s.teams.get {} team
  let pend := t.pending.any (·.id == r.id)
  let s := s.publish r.writes
  let s := match r.rsw with
    | some tgt => (s.holdLine t.part tgt true).commitBytes tgt.loc (wordBytes 8 r.status)
    | none => s
  let p := s.part t.part
  let s := if r.spec && !r.flagged then s.setPart t.part (p.locusUpdate (s.keyOf t (dword r.desc 0)) (locusCommit r)) else s
  let s := s.traceEvent t.part (dieOf t.core) 0x13 (s.gid0 team + r.rung * 2 ^ 14 + 2 ^ 17) none
  let s := s.setTeam team { t with regSeq := t.regSeq + 1, lastStatus := r.status
                                   pending := if pend then none else t.pending
                                   openRegion := if pend then t.openRegion else none }
  if pend && t.openRegion.isSome then s
  else
    let waiting := (s.groupsOf team).filter fun k => (s.group k).closed == some true && (s.group k).wakeable
    foldState (s.inTurn true waiting) s fun k s => (s.mapGroup k fun g => { g.completeWait with closed := none }).waitIssued k

/-- REGION_COMMIT (R215, R217): the oldest closed region whose work has drained commits, a pending one also while the
region behind it waits for its restart (R220).  A group that waits for it under PEND and is stopped does not complete
its wait (R275); after a halt nothing is published (R227).  DESIGN CHOICE: a region whose groups have all executed END and none
PEND has been closed by none and never commits (log 112). -/
def execRegionCommit (team : Nat) (s : State) : Res :=
  let t := s.teams.get {} team
  let closed := !(s.partners team).isEmpty && (s.partners team).all fun k => (s.groups.get {} k).closed.isSome
  let r := match t.pending with
    | some r => some r
    | none => if closed && t.restart.isNone then t.openRegion else none
  match r with
  | some r =>
    if r.trip.isSome || r.starved || !s.regionDrained team r || !s.regionsRun team || (s.part t.part).state ≠ .run then
      .fault .notEnabled
    else .next (s.commitRegion team r)
  | none => .fault .notEnabled

/-! ## PABORT and PQUERY -/

/-- R212, R364: PABORT; in non-speculative mode it is recorded as the last trip, and one that meets a trip still being
handled, of either region, has no effect. -/
def execPabort (s : State) : Res :=
  s.unlessHeld <|
    match s.t.openRegion with
    | none => s.fault causeRegionNone 0 0
    | some r =>
      if !r.spec then (s.setT { s.t with openRegion := some { r with tripMon := 0 } }).ctlDone s.g
      else if s.t.tripped.isSome then s.ctlDone s.g
      else
        .next ((s.setG { s.g with cpc := s.g.cpc + 4, cwait := none }).tripRegion s.g.team r 0 fun s' =>
          (s'.setG s.g).raiseFault causeRegionTrip 0 r.addr (tripInfo r 0))

/-- R365 form 1. -/
def Team.queryOpen (t : Team) : Word :=
  match t.openRegion.orElse fun _ => t.pending with
  | none => 0
  | some r =>
    word [at_ (field (dword r.desc 0) 0 32) 32, at_ (min 255 r.replays) 24, at_ r.rung 8, at_ (b2n (!r.spec)) 2,
      at_ (b2n t.pending.isSome) 1, at_ (b2n t.openRegion.isSome) 0]

/-- R365: PQUERY. -/
def execPquery (d b : BitVec 6) (f : BitVec 2) (s : State) : Res :=
  let g := s.g
  if f = 1 then s.ctlDone (g.setK d s.t.queryOpen)
  else if f = 2 then s.ctlDone (g.setK d s.t.lastStatus)
  else
    let addr := if g.getK b = 0 then s.t.type.ldef else g.getK b
    if addr = 0 then s.illegal
    else if addr.toNat % 64 != 0 then s.fault causeMisaligned addr 32
    else if g.acqHold.isSome then s.ctlWait (g.acqHold.getD .cwaitGl)
    else
      match s.check g.team addr 8 .read false with
      | .fault c => s.fault c addr 32
      | .busy => s.ctlWait .translate
      | .ok t marks skip starve =>
        let s := ((s.applyMarks marks skip starve).holdLine g.part t false).syncRead t
        let w := bytesWord (s.groupRead t.loc 8)
        (s.noteAccess 32 addr t.loc 8 true false).ctlDone
          (s.g.setK d (locusWord ((s.p.locusFind (s.keyOf s.t w)).map (·.2))))

end Sys2Proof.Machine
end

