-- ==== Sys2Proof/Machine/Atomics.lean ====
section
/-! DEFINITION. Sys2Proof/Machine/Atomics.lean: what every memory instruction of a group shares: the atomic operations
(R170, R305), what holds an access back, and the checks that writes meet in a region (R61, R137, R200, R202, R204). -/

namespace Sys2Proof.Machine

/-- R170: FP32 or FP64 add of encodings, rounded to nearest even, never flushed. -/
def floatAdd (n a b : Nat) : Nat :=
  let f := if n = 8 then fp64 else fp32
  f.encode (f.rnd {} 0 (fadd false (f.decode a) (f.decode b))).val

/-- R305, R331: Op(old, x) at a width of `n` bytes. -/
def atomicOp (op n old x : Nat) : Nat :=
  let w := 8 * n
  let lt := fun (a b : Nat) => (BitVec.ofNat w a).slt (BitVec.ofNat w b)
  match op with
  | 0 => (old + x) % 2 ^ w
  | 1 => x
  | 2 => old &&& x
  | 3 => old ||| x
  | 4 => old ^^^ x
  | 5 => if lt x old then x else old
  | 6 => if lt old x then x else old
  | 7 => min old x
  | 8 => max old x
  | _ => floatAdd n old x

/-- R60: an operation that the non-coherent window does not offer. -/
def ncRefuses (op : Nat) : Bool := op != 0 && op != 1

/-- R137: an instruction that would take a counter to 64 waits. -/
def Group.countHold (lists : List (List Flight)) : Option Wait := if lists.any (63 ≤ ·.length) then some .engineFull else none

/-- R61, R137: why a memory instruction that would count in these lists is held before its checks. -/
def Group.memHold (g : Group) (lists : List (List Flight)) : Option Wait :=
  match g.acqHold with
  | some w => some w
  | none => Group.countHold lists

/-- The acting group's address lies in a window. -/
def State.inWindow (s : State) (addr : Word) : Bool := (s.window s.g.team addr).isSome

/-- R200: a write to a system address in an open speculative region. -/
def State.regionForbids (s : State) (t : Target) : Bool := s.t.speculative && t.isSystem

/-- R185, R202: a write to a scratchpad line of which another team holds an uncommitted version. -/
def State.lineHeld (s : State) (t : Target) : Bool := t.isWindow && s.spadHeld s.g.team t.loc

/-- R240: granules that a lane locks to commit: those of its logs. -/
def Group.commitGranules (g : Group) (i : Nat) : List Nat :=
  (g.tx.reads.get [] i ++ g.tx.writes.get [] i).map (·.granule)

/-- What is under way is an XEND that commits. -/
def MidBody.isCommit : MidBody → Bool
  | .commit .. => true
  | _ => false

/-- The region of a team that commits next. -/
def Team.oldest (t : Team) : Option Region := t.pending.orElse fun _ => t.openRegion

/-- R186, R217, R240: a commit that is under way has locked a byte of these. -/
def State.locks (s : State) (m : MidWord) (loc n : Nat) : Bool :=
  match m.body with
  | .commit (i :: _) _ true => ((s.group m.group).commitGranules i).any fun a => a / 8 ≤ (loc + n - 1) / 8 && loc / 8 ≤ a / 8
  | .region => (s.team (m.group / 32)).oldest.any fun r => r.writes.any fun c => c.1 / 128 == loc / 128
  | _ => false

/-- R186, R241, R243: a commit has locked a byte that the acting group reaches; a group whose open region is speculative
writes versions of its own, also of the lines that an older region of its team publishes. -/
def State.lockHit (s : State) (loc n : Nat) : Bool :=
  s.mid.any fun m => s.locks m loc n && !(m.body == .region && m.group / 32 == s.g.team && s.t.speculative)

/-- R186, R241: an access waits on a lock: a write always, and a read where the part serves it after the commit. -/
def State.lockWait (s : State) (loc n : Nat) (write : Bool) : Bool :=
  s.lockHit loc n && (write || Config.choice s.free 70 % 2 == 1)

/-- R204, R220: the open region cannot get the line that a write at `loc` needs. -/
def State.noRoom (s : State) (loc : Nat) : Bool :=
  match s.t.openRegion with
  | some r => r.spec && !s.lineRoom s.g.team r loc
  | none => false

/-- R220: note that the open region met SHADOW_FULL. -/
def State.starve (s : State) : State :=
  s.setT { s.t with openRegion := s.t.openRegion.map fun r => { r with starved := true } }

/-- The region of a write of the acting group (R215). -/
def State.writeRegion (s : State) : Option Nat := (s.t.openRegion.filter (·.spec)).map (·.id)

end Sys2Proof.Machine
end

