-- ==== Sys2Proof/Machine/ControlMemory.lean ====
section
/-! DEFINITION. Sys2Proof/Machine/ControlMemory.lean: the control stream's memory instructions (R329-R333) and the
events that wake a group parked by WAITM (R110). -/

namespace Sys2Proof.Machine

/-- R330: the address of LDK, STK and WAITM. -/
def kmAddress (base : Word) (o : BitVec 10) (z : Nat) : Word := base + o.signExtend 64 * BitVec.ofNat 64 (2 ^ z)

/-- R165, R329: the checks of one access of `n` bytes of the control stream, and `r` with its target. -/
def State.kmCheck (s : State) (addr : Word) (n : Nat) (need : Need) (nc : Bool) (r : Target → State → Res) : Res :=
  let s := s.askPage s.g.team addr n
  match s.check s.g.team addr n need nc with
  | .fault c => s.fault c addr 0
  | .busy => s.ctlWait .translate
  | .ok t marks skip starve =>
    if need == .read && s.lockWait t.loc n false then s.ctlWait .txCommit
    else r t ((s.applyMarks marks skip starve).holdLine s.g.part t (need == .write))

/-- R200, R202, R204: what a write of the control stream meets before it is performed; `writes` says that it needs its
line. -/
def State.kmWrite (s0 s : State) (t : Target) (n : Nat) (writes : Bool) (r : Res) : Res :=
  let s0 := { s0 with paged := s.paged }
  if s.regionForbids t then s0.fault causeRegionEffect 0 0
  else if s.lineHeld t || s.lockWait t.loc n true then s0.ctlWait .txCommit
  else if writes && s.noRoom t.loc then s0.starve.ctlWait .regionCommit
  else r

/-- A load of the control stream joins its counter and goes on. -/
def State.kmLoad (s : State) (t : Target) (f : Flight) : Res := s.ctlDone (s.g.addFlight t.isWindow false f)


/-- R330: LDK. -/
def execLdk (d a : BitVec 6) (z : BitVec 2) (x : BitVec 1) (o : BitVec 10) (s : State) : Res :=
  let addr := kmAddress (s.g.getK a) o z.toNat
  let n := 2 ^ z.toNat
  match s.g.memHold [s.g.flights (s.inWindow addr) false] with
  | some w => s.ctlWait w
  | none =>
    s.kmCheck addr n .read false fun t s =>
      (s.noteAccess 32 addr t.loc n true false).kmLoad t <|
        if t.isNonCoherent then { late := [t.lateAccess 32 addr n .read (.k d.toNat (x == 1))], nonCoherent := true }
        else { land := [.k d.toNat (ldkValue (x == 1) n (s.groupRead t.loc n))] }

/-- R330: STK. -/
def execStk (d a : BitVec 6) (z : BitVec 2) (o : BitVec 10) (s : State) : Res :=
  let addr := kmAddress (s.g.getK a) o z.toNat
  let n := 2 ^ z.toNat
  s.unlessHeld <|
    match s.g.memHold [s.g.st] with
    | some w => s.ctlWait w
    | none =>
      s.kmCheck addr n .write false fun t s' =>
        s.kmWrite s' t n true <|
          let s' := (s'.noteAccess 32 addr t.loc n false true).groupStore t s'.g.seq (wordBytes n (s.g.getK d))
          s'.ctlDone (s'.g.addFlight false true { nonCoherent := t.isNonCoherent, region := s.writeRegion })

/-- R60: an atomic whose PCIe AtomicOp the host refuses. -/
def State.atomicFails (s : State) (t : Target) : Bool := t.isNonCoherent && Config.atomicRefused s.free 32

/-- What AMOK and CASK fix: their new value from the old one, if any, what returns, and the AtomicOp of the non-coherent
window (R60) with where its value goes. -/
structure KmAtomic where
  /-- The new value. -/
  new : Nat → Option Nat
  /-- What returns. -/
  land : Nat → List Landing
  /-- The AtomicOp. -/
  op : LateOp
  /-- Where its value goes. -/
  dest : LateDest

/-- R331, R332: an atomic of the control stream.  One on the non-coherent window is performed by the host, later (R188). -/
def State.kmAtomic (s : State) (addr : Word) (n : Nat) (nc acq : Bool) (x : KmAtomic) : Res :=
  s.unlessHeld <|
    match s.g.memHold [s.g.flights (s.inWindow addr) false] with
    | some w => s.ctlWait w
    | none =>
      s.kmCheck addr n .write nc fun t s' =>
        let s' := s'.syncFor t
        let old := leNat (s'.groupRead t.loc n)
        s.kmWrite s' t n (x.new old).isSome <|
          if s.atomicFails t then { s with paged := s'.paged }.fault causeHostAbort addr 0
          else
            let s' := s'.noteAccess 32 addr t.loc n true true
            let fl : Flight := { acq := acq && t.isSystem, region := s.writeRegion }
            if t.isNonCoherent then s'.kmLoad t { fl with late := [t.lateAccess 32 addr n x.op x.dest], nonCoherent := true }
            else
              let s' := match x.new old with
                | some v => s'.groupWrite t.loc (leBytes n v)
                | none => s'.wakeWatchers t.loc
              s'.kmLoad t { fl with land := x.land old }

/-- R60, R331: AMOK with operation `op` on `n` bytes and operand `x`, the old value to register `d`. -/
def amokAtomic (op n x d : Nat) : KmAtomic :=
  { new := fun old => some (atomicOp op n old x), land := fun old => [.k d (BitVec.ofNat 64 old)]
    op := if op = 1 then .swap x else .add x, dest := .k d false }

/-- R331: AMOK. -/
def execAmok (d a : BitVec 6) (z : BitVec 1) (_sc : BitVec 2) (p : BitVec 4) (q _e : BitVec 1) (s : State) : Res :=
  let n := if z = 1 then 8 else 4
  s.kmAtomic (s.g.getK a) n (ncRefuses p.toNat) (q == 1)
    (amokAtomic p.toNat n ((s.g.getK d).toNat % 2 ^ (8 * n)) d.toNat)

/-- R332: a register, or an even pair of them, as a value of `n` bytes. -/
def Group.caskValue (g : Group) (r : BitVec 6) (n : Nat) : Nat :=
  if n = 16 then (g.getK r).toNat + (g.getK (r + 1)).toNat * 2 ^ 64 else (g.getK r).toNat % 2 ^ (8 * n)

/-- R332: CASK. -/
def execCask (d a : BitVec 6) (z : BitVec 2) (_sc : BitVec 2) (n : BitVec 6) (q _e : BitVec 1) (s : State) : Res :=
  let w := if z = 0 then 16 else if z = 2 then 4 else 8
  s.kmAtomic (s.g.getK a) w false (q == 1)
    { new := fun old => if old = s.g.caskValue d w then some (s.g.caskValue n w) else none
      land := fun old =>
        if w = 16 then [.k d.toNat (BitVec.ofNat 64 old), .k (d.toNat + 1) (BitVec.ofNat 64 (old / 2 ^ 64))]
        else [.k d.toNat (BitVec.ofNat 64 old)]
      op := .cas (s.g.caskValue d w) (s.g.caskValue n w), dest := if w = 16 then .kPair d.toNat else .k d.toNat false }

/-! ## WAITM (R109, R110, R333) -/

/-- R333: read the word: the WAITM completes where it differs from kd, which is when a watchpoint stops its group (R285),
and parks otherwise.  Each read is an access (R430). -/
def State.watch (s : State) (d : BitVec 6) (addr : Word) (n : Nat) : Res :=
  s.kmCheck addr n .read false fun t s =>
    let s := (s.syncRead t).noteAccess 32 addr t.loc n true false
    let v := leNat (s.groupRead t.loc n)
    if v ≠ (s.g.getK d).toNat % 2 ^ (8 * n) then
      let seen := s.g.seen
      { s with accesses := s.accesses ++ seen, hit := seen.foldl (fun (m : Byte) (a : Access) => m ||| a.hits.getD 0) s.hit }.ctlDone
        ({ s.g with park := none, seen := [] }.stepped true)
    else .next (s.setG { s.g with park := some (.waitm d addr n t.loc false s.phys), cwait := none, walking := 0 })

/-- R333: WAITM. -/
def execWaitm (d a : BitVec 6) (z : BitVec 1) (o : BitVec 10) (s : State) : Res :=
  s.unlessHeld <|
    match s.g.memHold [] with
    | some w => s.ctlWait w
    | none => s.watch d (kmAddress (s.g.getK a) o (2 + z.toNat)) (2 ^ (2 + z.toNat))

/-- R110: a group parked by WAITM that may wake (R431), with what its WAITM names. -/
def State.parkedAt (s : State) (group : Nat) (due : Bool → Nat → Bool) : Option (BitVec 6 × Word × Nat) :=
  let g := s.groups.get {} group
  match g.park with
  | some (.waitm d a n _ wake since) =>
    if g.wakeable && (s.team g.team).phase == TeamPhase.resident && due wake since then some (d, a, n) else none
  | _ => none

/-- WAITM_WAKE (R110): a write or a restoration has woken the group, which reads its word again. -/
def execWaitmWake (group : Nat) (s : State) : Res :=
  match s.parkedAt group fun wake _ => wake with
  | some (d, a, n) => { s.wakePorts [group] with actor := group }.watch d a n
  | none => .fault .notEnabled

/-- WAITM_RECHECK (R110): four microseconds of physical time after it parked, the group reads its word again. -/
def execWaitmRecheck (group : Nat) (s : State) : Res :=
  match s.parkedAt group fun _ since => since + 4000 ≤ s.phys with
  | some (d, a, n) => { s.wakePorts [group] with actor := group }.watch d a n
  | none => .fault .notEnabled

end Sys2Proof.Machine
end

