-- ==== Sys2Proof/Machine/Time.lean ====
section
/-! DEFINITION. Sys2Proof/Machine/Time.lean: the clocks: the nanosecond counter (R28, R29), the clusters' clocks (R30-R33),
the gating of ports (R283), and the events LOGICAL_TICK, PORT_GATE, BOOST_BOUNDARY, PERMIT_ACCRUE. -/

namespace Sys2Proof.Machine

/-- Units of the counter's fraction in a nanosecond. -/
def nsUnit : Int := 256000000000

/-- R29: the counter after `dt` nanoseconds of physical time, with the rate and the slew. -/
def Package.tick (p : Package) (dt : Nat) : Package :=
  let absorbed := min dt (p.slew * 2000 - p.slewFrac)
  let used := p.slewFrac + absorbed
  let total := p.rateFrac + (dt : Int) * (nsUnit + p.ppb.toInt) - (absorbed : Int) * 128000000
  { p with ns := p.ns + BitVec.ofInt 64 (total / nsUnit), rateFrac := total % nsUnit
           slew := p.slew - used / 2000, slewFrac := used % 2000 }

/-- R30, R32: a cluster's clock in twentieths of a cycle per nanosecond: 1.75, 2.1 or 1.9 GHz. -/
def clockRate (clk : Nat) : Nat := if clk = 1 then 42 else if clk = 2 then 38 else 35

/-- Cycles that pass in a cluster in `dt` nanoseconds. -/
def Cluster.gain (c : Cluster) (dt : Nat) : Nat := (c.frac + dt * clockRate c.clk) / 20

/-- A cluster after `dt` nanoseconds. -/
def Cluster.tick (c : Cluster) (dt : Nat) : Cluster :=
  { c with cycles := c.cycles + c.gain dt, frac := (c.frac + dt * clockRate c.clk) % 20
           throttleNs := c.throttleNs - dt, nominalNs := if c.clk = 0 then c.nominalNs + dt else 0 }

/-- A group stands on a core's port, where its team runs, is being saved or is being killed. -/
def State.onPort (s : State) (g : Group) (core port : Nat) : Bool :=
  let t := s.team g.team
  t.core == core && g.port == port && (t.phase == .resident || t.phase == .saving || t.phase == .killing) && !g.retired

/-- Every group of a core's port is parked or absent (R283). -/
def State.portIdle (s : State) (core port : Nat) : Bool :=
  s.groups.all fun (_, g) => !s.onPort g core port || (g.park.isSome && g.synced)

/-- R283: note how long each port has been idle. -/
def State.markPorts (s : State) : State :=
  { s with cores := s.cores.map fun (c, x) =>
      (c, { x with idleFrom := (List.range 4).foldl (fun m p =>
        if s.portIdle c p then m else SMap.set 0 m p (s.cluster (clusterOf c)).cycles) x.idleFrom }) }

/-- R283: a port with a group that is awake is not gated. -/
def State.ungate (s : State) : State :=
  { s with cores := s.cores.map fun (c, x) =>
      if x.gated = 0 then (c, x)
      else (c, { x with gated := (List.range 4).foldl (fun m p =>
        if s.portIdle c p then m else m &&& ~~~(1#4 <<< p)) x.gated }) }

/-- LOGICAL_TICK (R161): the core's logical clock advances once for each 1,024 cycles. -/
def execLogicalTick (core : Nat) (s : State) : Res :=
  let c := s.core core
  if c.ticks < (s.cluster (clusterOf core)).cycles / 1024 then .next (s.setCore core { c with ticks := c.ticks + 1 })
  else .fault .notEnabled

/-- PORT_GATE (R283): a port whose groups have all been parked or absent for 1,024 cycles is clock-gated. -/
def execPortGate (core port : Nat) (s : State) : Res :=
  let c := s.core core
  if s.portIdle core port && c.idleFrom.get 0 port + 1024 ≤ (s.cluster (clusterOf core)).cycles then
    .next (s.setCore core { c with gated := c.gated ||| (1#4 <<< port) })
  else .fault .notEnabled

/-! ## Boost permits -/

/-- R30 without its third condition, which an interval in progress does not need. -/
def State.wantsBoost (s : State) (cl : Nat) : Bool :=
  (s.cluster cl).en &&
    s.teams.any fun (_, t) => clusterOf t.core == cl && (t.phase == .resident || t.phase == .saving || t.phase == .killing)

/-- R32: add a permit for each complete 40 us at nominal that is not yet counted. -/
def Cluster.accrue (c : Cluster) : Cluster :=
  { c with permits := min 64 (c.permits + c.nominalNs / 40000), nominalNs := c.nominalNs % 40000 }

/-- R33: a cluster changes its clock; what it has spent of an incomplete 40 us at nominal is dropped (log 73). -/
def Cluster.setClock (c : Cluster) (clk : Nat) : Cluster :=
  if c.clk = clk then c else { c with clk, throttleNs := 200, nominalNs := 0 }

/-- R31, R32: what a boundary does to a cluster that holds a slot, when `n` slots remain. -/
def State.boostHolder (s : State) (cl n : Nat) : Cluster :=
  let c := s.cluster cl
  match c.slot with
  | none => c
  | some i =>
    if n ≤ i || c.clk = 2 || !s.wantsBoost cl then { c.setClock 0 with slot := none }
    else if c.permits = 0 then c.setClock 2
    else { c with permits := c.permits - 1 }

/-- R31: the slots of a die that are free. -/
def State.freeSlots (s : State) (die n : Nat) : List Nat :=
  (List.range n).filter fun i => !((List.range 16).any fun j => (s.cluster (die * 16 + j)).slot == some i)

/-- The boost timer and slots of a die. -/
def State.boostDie (s : State) (die : Nat) : BoostDie := s.pkg.boost.get {} die

/-- R31: grant free slots to the claimants, from this list of indices of clusters that held none. -/
def State.boostGrant (s : State) (die n : Nat) : List Nat → State
  | [] => s
  | j :: js =>
    let cl := die * 16 + j
    let c := s.cluster cl
    match s.freeSlots die n with
    | [] => s
    | i :: _ =>
      if c.slot.isNone && s.wantsBoost cl && 4 ≤ c.permits then
        let s := { s with
          clusters := SMap.set {} s.clusters cl { c.setClock 1 with slot := some i, permits := c.permits - 1 }
          pkg := { s.pkg with boost := SMap.set {} s.pkg.boost die { s.boostDie die with last := j } } }
        s.boostGrant die n js
      else s.boostGrant die n js

/-- R31: the clusters of a die that hold no slot, in the order in which the arbiter looks at them.  One that loses its
slot at this boundary is not among them. -/
def State.boostClaimants (s : State) (die : Nat) : List Nat :=
  ((List.range 16).map fun k => ((s.boostDie die).last + 1 + k) % 16).filter fun j =>
    (s.cluster (die * 16 + j)).slot.isNone

/-- BOOST_BOUNDARY (R30-R33): a 10 us boundary of a die at which the power loop makes SLOTS `n`, at most what software
last wrote.  Permits that are due are counted first. -/
def execBoostBoundary (die n : Nat) (s : State) : Res :=
  let b := s.boostDie die
  if b.since < 10000 || b.written < n || 4 ≤ die then .fault .notEnabled
  else
    let s := { s with pkg := { s.pkg with boost := SMap.set {} s.pkg.boost die { b with slots := n, since := b.since - 10000 } } }
    let claimants := s.boostClaimants die
    let s := { s with clusters := (List.range 16).foldl (fun m j =>
      SMap.set {} m (die * 16 + j) (s.boostHolder (die * 16 + j) n).accrue) s.clusters }
    .next (s.boostGrant die n claimants)

/-- PERMIT_ACCRUE (R32): each complete 40 us at nominal adds a permit. -/
def execPermitAccrue (cluster : Nat) (s : State) : Res :=
  let c := s.cluster cluster
  if c.nominalNs < 40000 || 64 ≤ cluster then .fault .notEnabled
  else
    let c := { c with permits := min 64 (c.permits + 1), nominalNs := c.nominalNs - 40000 }
    .next { s with clusters := SMap.set {} s.clusters cluster c }

end Sys2Proof.Machine
end

