-- ==== Sys2Proof/Machine/Tasks.lean ====
section
/-! DEFINITION. Sys2Proof/Machine/Tasks.lean: the task machine (R64-R85): its accesses, class blocks and ready queues,
decrements with firing, poison and interrupts, the completion of records, spawned batches, and the instructions and
events that act on them: TDEC, TFIN, RCLAIM, TSPAWN, COUNTER_DECREMENT, RECORD_COMPLETE, BATCH_CLOSE. -/

namespace Sys2Proof.Machine

/-! ## Accesses of device agents -/

/-- Why an agent's access is not performed. -/
inductive AgentStop where
  /-- The page is busy or is to be migrated first. -/
  | wait
  /-- It fails a check of R165 or of the structure it reads. -/
  | fail (cause : BitVec 8) (addr : Word)
  deriving DecidableEq, Repr

/-- A step of an agent. -/
abbrev AgentRes (α : Type) := Except AgentStop (α × State)

/-- R64: an agent's access of `n` bytes at a partition virtual address. -/
def State.agentLoc (s : State) (part : Nat) (va : Word) (n : Nat) (need : Need) : AgentRes Nat :=
  match s.agentAccess part va.toNat n need with
  | .error none => .error .wait
  | .error (some c) => .error (.fail c va)
  | .ok (loc, t, s) => .ok (loc, s.holdLine part t (need == .write))

/-- An agent reads an 8-byte word. -/
def State.agentWord (s : State) (part : Nat) (va : Word) : AgentRes Word :=
  match s.agentLoc part va 8 .read with
  | .error e => .error e
  | .ok (loc, s) => .ok (s.wordAt loc, s)

/-- An agent writes bytes within one page. -/
def State.agentWrite (s : State) (part : Nat) (va : Word) (n : Nat) (bs : List Byte) : Except AgentStop State :=
  match s.agentLoc part va n .write with
  | .error e => .error e
  | .ok (loc, s) => .ok (s.commitBytes loc bs)

/-- An agent writes an 8-byte word. -/
def State.agentSet (s : State) (part : Nat) (va w : Word) : Except AgentStop State := s.agentWrite part va 8 (wordBytes 8 w)

/-- R276: the task machine halts the partition. -/
def State.taskHalt (s : State) (part : Nat) (cause : BitVec 8) (addr info : Word) : State :=
  s.raiseHalt part cause (s.agentRecord 4 cause addr info 0)

/-- What an agent's step comes to as a machine event: a failure halts the partition. -/
def State.agentStep (s : State) (part : Nat) (r : Except AgentStop State) : Res :=
  match r with
  | .ok s' => .next s'
  | .error .wait => .fault .notEnabled
  | .error (.fail c a) => .next (s.taskHalt part c a 0)

/-- The same for a step that keeps what it did before a failure. -/
def State.haltOn (s : State) (part : Nat) (r : Except AgentStop State) : Except AgentStop State :=
  match r with
  | .error (.fail c a) => .ok (s.taskHalt part c a 0)
  | r => r

/-- R64: the control area. -/
def ctlArea : Word := 0x1FFFFFFFFF00000

/-- An address in the control area. -/
def ctlAt (off : Nat) : Word := ctlArea + BitVec.ofNat 64 off

/-! ## Interrupts (R52) -/

/-- R41: the function that owns a partition. -/
def Partition.function (p : Partition) : Nat := p.page.owner.toNat

/-- R52: raise a vector of a function; a masked vector becomes pending.  MSI-X acts as enabled (log 82). -/
def Package.raiseVector (p : Package) (fn vec : Nat) : Package :=
  let k := fn * 256 + vec
  let e := p.msix.get {} k
  if e.masked then { p with msix := p.msix.put k { e with pending := true } } else { p with irqs := (fn, vec) :: p.irqs }

/-- R52: the entries that name the word at `va`, armed and enabled, raise their vectors in ascending order. -/
def State.raiseBound (s : State) (part : Nat) (va : Word) : State :=
  foldState (List.range 256) s fun i s =>
    let p := s.part part
    let e := p.page.irqBind.get 0 i
    if bit e 55 && bit e 54 && field e 0 54 == field va 3 54 then
      let s := s.setPart part { p with page := { p.page with irqBind := SMap.set 0 p.page.irqBind i (e &&& ~~~(at_ 1 54)) } }
      { s with pkg := s.pkg.raiseVector p.function (field e 56 8) }
    else s

/-! ## Ready queues and class blocks (R73, R74) -/

/-- The class block as the task machine writes it. -/
def Partition.classBlock (p : Partition) (k : Nat) : List Word :=
  let o := p.overflow.get [] k
  [o.headD 0, o.getLastD 0, word [at_ o.length 32, at_ (p.queues.get [] k).length 0], p.fired.get 0 k, 0, 0, 0, 0]

/-- Bytes of successive words. -/
def wordsBytes (ws : List Word) : List Byte := ws.flatMap (wordBytes 8)

/-- Address of the block of class `k`. -/
def classAddr (k : Nat) : Word := ctlAt (0x4000 + 64 * k)

/-- The task machine writes the block of class `k`. -/
def State.writeClass (s : State) (part k : Nat) : Except AgentStop State :=
  match s.agentLoc part (classAddr k) 64 .write with
  | .error e => .error e
  | .ok (loc, s) =>
    .ok { s.commitBytes loc (wordsBytes ((s.part part).classBlock k)) with own := (List.range 64).map (s.stores.length + ·) ++ s.own }

/-- Write the blocks of some classes. -/
def State.writeClasses (part : Nat) : State → List Nat → Except AgentStop State
  | s, [] => .ok s
  | s, k :: ks =>
    match s.writeClass part k with
    | .error e => .error e
    | .ok s => State.writeClasses part s ks

/-- R74: of the writes of this step, those to a partition's class blocks that are not the task machine's own make their
class's overflow order open. -/
def State.noteClasses (s : State) (part : Nat) : State :=
  let p := s.part part
  if p.state ≠ .run then s
  else
    match s.agentLoc part (classAddr 0) 64 .read with
    | .error _ => s
    | .ok (loc, _) =>
      let xs := ((s.stores.reverse.zipIdx.filter fun c =>
        decide (loc ≤ c.1.1) && decide (c.1.1 < loc + 512)).filter fun c => !s.own.contains c.2).map (·.1)
      if xs.isEmpty then s
      else s.setPart part { p with disorder := xs.foldl (fun m c => m ||| (1#8 <<< ((c.1 - loc) / 64))) p.disorder }

/-- R74: the class blocks of every partition, after a step. -/
def State.watchClasses (s : State) : State :=
  if s.stores.isEmpty then { s with own := [] }
  else { foldState s.parts.keys s (fun k s => s.noteClasses k) with own := [] }

/-- R73: a record joins the queue of class `k`. -/
def State.pushRecord (s : State) (part k : Nat) (rec : Word) : Except AgentStop State :=
  let p := s.part part
  let q := p.queues.get [] k
  let o := p.overflow.get [] k
  let fired := SMap.set 0 p.fired k (p.fired.get 0 k + 1)
  if q.length < 4096 && o.isEmpty then
    (s.setPart part { p with queues := p.queues.put k (q ++ [rec]), fired }).writeClass part k
  else
    match (match o.getLast? with
      | some last => s.agentSet part (last + 0x78) rec
      | none => .ok s) with
    | .error e => .error e
    | .ok s =>
      match s.agentSet part (rec + 0x78) 0 with
      | .error e => .error e
      | .ok s =>
        let p := s.part part
        (s.setPart part { p with overflow := p.overflow.put k (o ++ [rec]), fired }).writeClass part k

/-- R73, R74: an SRAM entry of class `k` has freed: the oldest overflow record moves into it; where software has written
the class block, which one moves is open. -/
def State.refill (s : State) (part k : Nat) : Except AgentStop State :=
  let p := s.part part
  match p.overflow.get [] k with
  | [] => s.writeClass part k
  | r :: rs =>
    let o := r :: rs
    let x := if p.disorder.getLsbD k then o.getD (Config.choice s.free (64 + part * 8 + k) % o.length) r else r
    (s.setPart part { p with overflow := p.overflow.put k (o.erase x)
                             queues := p.queues.put k (p.queues.get [] k ++ [x]) }).writeClass part k

/-- R77: a record leaves the queue of class `k`. -/
def State.popRecord (s : State) (part k : Nat) (rec : Word) : Except AgentStop State :=
  let p := s.part part
  if (p.queues.get [] k).contains rec then
    (s.setPart part { p with queues := p.queues.put k ((p.queues.get [] k).erase rec) }).refill part k
  else .ok s

/-- R72: the class in whose queue a record stands, whatever its own words say by now. -/
def Partition.queueOf (p : Partition) (rec : Word) (cls : Nat) : Nat :=
  ((List.range 8).find? fun k => (p.queues.get [] k).contains rec).getD cls

/-! ## Task records (R66-R69) -/

/-- The sixteen words of a record. -/
def State.recordWords (s : State) (loc : Nat) : List Word := (List.range 16).map fun i => s.wordAt (loc + 8 * i)

/-- KIND. -/
def recKind (w : List Word) : Nat := field (dword w 1) 0 4

/-- NSUCC. -/
def recNsucc (w : List Word) : Nat := field (dword w 1) 24 3

/-- UNITS. -/
def recUnits (w : List Word) : Nat := field (dword w 1) 32 16

/-- CLASS. -/
def recClass (w : List Word) : Nat := field (dword w 1) 4 3

/-- TTYPE. -/
def recType (w : List Word) : Nat := field (dword w 1) 8 8

/-- R67, R69: the record passes acceptance. -/
def recordOk (w : List Word) : Bool :=
  let c := dword w 1
  let k := recKind w
  let g := (dword w 5).toNat
  let st := dword w 13
  field st 48 16 == 0 && field st 24 8 == 0 && field st 3 12 == 0 && field c 48 8 == 0 && field c 28 4 == 0 && field c 22 2 == 0 && !bit c 19 && !bit c 7 && k ≤ 5 && recNsucc w ≤ 4 &&
  ((k != 1 && k != 2) || recUnits w != 0) &&
  (k != 2 || (field c 16 2 ≤ 1 && 1 ≤ g && decide (g < 2 ^ 32))) &&
  (k ≤ 2 || (field c 20 2 ≤ 2 && (k != 5 || field c 20 2 != 2) && netFieldsOk w k)) &&
  (k == 5 || field (dword w 12) 32 32 == 0) &&
  (List.range (min 4 (recNsucc w))).all fun i => field (dword w (7 + i)) 57 7 == 0
where
  /-- R88: reserved fields and codes of NETCTL and RCTR. -/
  netFieldsOk (w : List Word) (k : Nat) : Bool :=
    field (dword w 5) 49 15 == 0 && field (dword w 5) 45 3 == 0 && field (dword w 6) 16 32 == 0 &&
    (k != 5 || field (dword w 5) 42 3 ≤ 5)

/-- R81: a RANGE record whose interval is empty. -/
def emptyRange (w : List Word) : Bool := recKind w == 2 && decide ((dword w 4).toNat ≤ (dword w 3).toNat)

/-- R69: change the STATE field of a status word. -/
def withState (st : Word) (x : Nat) : Word := (st &&& ~~~7#64) ||| at_ x 0

/-- Write STATE of the record at `loc`. -/
def State.setRecordState (s : State) (loc x : Nat) : State :=
  s.commitBytes (loc + 0x68) (wordBytes 8 (withState (s.wordAt (loc + 0x68)) x))

/-- R68: ADDR and the decrement of a successor entry. -/
def succEntry (e : Word) : Word × Nat := (at_ (field e 3 54) 3, field e 0 3 + 1)

/-- R79: a record completes: STATE becomes DONE and the successor decrements are issued. -/
def State.finishRecord (s : State) (part : Nat) (rec : Word) (loc : Nat) (w : List Word) : State :=
  let s := s.setRecordState loc 3
  let inl := (List.range (recNsucc w)).map fun i =>
    let (a, n) := succEntry (dword w (7 + i))
    Work.dec rec a n
  let ovf := if bit (dword w 1) 27 then [Work.block rec (dword w 11) 0] else []
  let p := s.part part
  s.setPart part { p with work := p.work ++ inl ++ ovf }

/-! ## Decrements (R70, R71) -/

/-- Translate every page of `len` bytes; the first argument bounds the pages. -/
def State.checkSpan (part : Nat) (need : Need) : Nat → State → Word → Nat → Except AgentStop State
  | 0, s, _, _ => .ok s
  | fuel + 1, s, va, len =>
    if len = 0 then .ok s
    else
      match s.agentLoc part va 1 need with
      | .error e => .error e
      | .ok (_, s) =>
        let k := min len (4096 - va.toNat % 4096)
        State.checkSpan part need fuel s (va + BitVec.ofNat 64 k) (len - k)

/-- R89: the local addresses of a network record, checked at acceptance. -/
def State.netLocalOk (s : State) (part : Nat) (w : List Word) : Except AgentStop State :=
  let len := field (dword w 5) 0 32
  let n := if bit (dword w 5) 48 then 8 else 4
  match recKind w with
  | 3 => s.checkSpan part .read (len / 4096 + 2) (dword w 3) len
  | 4 => s.checkSpan part .write (len / 4096 + 2) (dword w 3) len
  | 5 =>
    match s.agentLoc part (dword w 3) n .write with
    | .error e => .error e
    | .ok (_, s) => .ok s
  | _ => .ok s

/-- The task machine of the partition dispatches and completes records (R79, R274). -/
def State.dispatching (s : State) (part : Nat) : Bool := (s.part part).state == .run && (s.part part).halt.isNone

/-- R71, R83, R79: the record at `loc` fires: it is checked, becomes QUEUED, and joins its queue; a NOP or an empty RANGE
completes at once where the partition is in RUN. -/
def State.fireRecord (s : State) (part : Nat) (rec : Word) (loc : Nat) : Except AgentStop State :=
  let w := s.recordWords loc
  if !recordOk w then .ok (s.taskHalt part causeIllegalOp rec 0)
  else s.haltOn part <|
    match s.netLocalOk part w with
    | .error e => .error e
    | .ok s =>
    let s := s.setRecordState loc 1
    let s := if recKind w = 2 && field (dword w 1) 16 2 = 1 then s.commitBytes (loc + 0x30) (wordBytes 8 (dword w 3)) else s
    if (recKind w = 0 || emptyRange w) && s.dispatching part then .ok (s.finishRecord part rec loc w)
    else s.haltOn part (s.pushRecord part (recClass w) rec)

/-- R70: the poison action. -/
def State.poisonRecord (s : State) (part : Nat) (rec : Word) (loc : Nat) : State :=
  let s := s.commitBytes (loc + 8) (wordBytes 8 (s.wordAt (loc + 8) ||| at_ 1 18))
  (s.setRecordState loc 4).taskHalt part causeTaskPoison rec 0

/-- R66: the word at `loc` is a task record's counter. -/
def State.isCounter (s : State) (loc : Nat) : Bool := loc % 128 == 0 && s.byteAt (loc + 15) == 0x5A

/-- R70: subtract `n` from the word at `va`, which lies at `loc` of device memory. -/
def State.decrement (s : State) (part : Nat) (va : Word) (loc : Nat) (n : Word) : Except AgentStop State :=
  let old := s.wordAt loc
  let new := old - n
  let s := s.commitBytes loc (wordBytes 8 new)
  let s := if 0 < old.toInt ∧ new = 0 then s.raiseBound part va else s
  if !s.isCounter loc then .ok s
  else
    let state := field (s.wordAt (loc + 0x68)) 0 3
    let machine := s.by (taskUnit (s.homeDie part))
    if bit (s.wordAt (loc + 8)) 18 then .ok (machine (s.poisonRecord part va loc))
    else if n.toInt ≤ 0 then .ok s
    else if old.toInt ≤ 0 || new.toInt < 0 || (new == 0 && state != 0) then .ok (machine (s.poisonRecord part va loc))
    else if new = 0 then (s.fireRecord part va loc).map machine
    else .ok s

/-- R51, R52: the fetch-and-add of `-n` on the host word at `loc`, which `va` names. -/
def State.hostAdd (s : State) (part : Nat) (va : Word) (loc : Nat) (n : Word) : State :=
  let old := s.wordAt loc
  let s := s.commitBytes loc (wordBytes 8 (old - n))
  if 0 < old.toInt ∧ old - n = 0 then s.raiseBound part va else s

/-- R51, R52: the fetch-and-add of `-n` at the fabric port on a host word, or HOST_ABORT (R60). -/
def State.hostDecrement (s : State) (part : Nat) (va : Word) (t : Target) (n : Word) : Option State :=
  if s.atomicFails t then none else some (s.hostAdd part va t.loc n)

/-- R79: the stores to the non-coherent window of teams that have retired reach the host. -/
def State.flushRetired (s : State) : State :=
  let due := fun (x : Posted) => x.store.any fun y =>
    (s.team (y.1 / 32)).phase == .absent || (s.team (y.1 / 32)).phase == .done
  foldState (s.pkg.posted.filter due) { s with pkg := { s.pkg with posted := s.pkg.posted.filter fun x => !due x } }
    fun x s => s.commitBytes x.loc x.bytes

/-- R70, R79: a device agent decrements the word at `va`, after every write of the task to host memory. -/
def State.agentDecrement (s : State) (part : Nat) (va n : Word) : Except AgentStop State :=
  let s := s.flushRetired
  match s.agentAccess part va.toNat 8 .write with
  | .error none => .error .wait
  | .error (some c) => .error (.fail c va)
  | .ok (loc, t, s) =>
    if t.isSystem then
      match (s.holdLine part t true).hostDecrement part va t n with
      | some s => .ok s
      | none => .error (.fail causeHostAbort va)
    else s.decrement part va loc n

/-- R79: one entry of a successor overflow block. -/
def State.blockEntry (s : State) (part : Nat) (rec addr : Word) (i : Nat) : AgentRes (List Work) :=
  match s.agentLoc part addr 64 .read with
  | .error e => .error e
  | .ok (loc, s) =>
    let e := s.wordAt (loc + 8 * i)
    if i = 7 then .ok (if e = 0 then [] else [.block rec e 0], s)
    else if e = 0 then .ok ([], s)
    else if field e 57 7 ≠ 0 then .error (.fail causeIllegalOp addr)
    else
      let (a, n) := succEntry e
      match s.agentDecrement part a (BitVec.ofNat 64 n) with
      | .error e => .error e
      | .ok s => .ok ([.block rec addr (i + 1)], s)

/-- Replace item `i` of the issued decrements by `ws`. -/
def State.setWork (s : State) (part i : Nat) (ws : List Work) : State :=
  let p := s.part part
  s.setPart part { p with work := p.work.take i ++ ws ++ p.work.drop (i + 1) }

/-- The record that issued a decrement. -/
def Work.record : Work → Word
  | .dec r _ _ => r
  | .block r _ _ => r

/-- COUNTER_DECREMENT (R70, R79): the `i`th issued successor decrement is performed at its home slice, or, in order after
the record's inline successors, the next entry of its overflow list. -/
def execCounterDecrement (part i : Nat) (s : State) : Res :=
  let p := s.part part
  if p.state ≠ .run || p.halt.isSome then .fault .notEnabled
  else
    match p.work[i]? with
    | none => .fault .notEnabled
    | some (.dec _ a n) =>
      let s := s.setWork part i []
      s.agentStep part (s.agentDecrement part a (BitVec.ofNat 64 n))
    | some (.block rec a k) =>
      if (p.work.take i).any fun w => w.record == rec then .fault .notEnabled
      else
        match s.blockEntry part rec a k with
        | .error e => (s.setWork part i []).agentStep part (.error e)
        | .ok (ws, s) => .next (s.setWork part i ws)

/-! ## Completion of launches (R79) -/

/-- Change a launch. -/
def State.mapLaunch (s : State) (part id : Nat) (f : Launch → Launch) : State :=
  let p := s.part part
  s.setPart part { p with launches := p.launches.map fun l => if l.id = id then f l else l }

/-- R79, R84: every unit that is to be placed has been, and every team started has retired or been killed. -/
def Launch.over (l : Launch) : Bool := (l.finished || l.units ≤ l.next) && l.retired == l.started

/-- RECORD_COMPLETE (R79, R85): a launch whose units have all retired is over. -/
def execRecordComplete (part id : Nat) (s : State) : Res :=
  let p := s.part part
  match p.launches.find? (·.id == id) with
  | none => .fault .notEnabled
  | some l =>
    if p.state ≠ .run || p.halt.isSome || !l.over then .fault .notEnabled
    else
      let s := s.setPart part { p with launches := p.launches.filter (·.id != id)
                                       batches := p.batches.filter fun b => some b.slot != l.slot || b.isOpen }
      match s.agentLoc part l.record 128 .write with
      | .error e => s.agentStep part (.error e)
      | .ok (loc, s) => .next (s.finishRecord part l.record loc (s.recordWords loc))

/-! ## Spawned batches (R85) -/

/-- R85 step 6: the merged KERNEL record of a batch. -/
def Batch.record (b : Batch) : List Word :=
  [0, word [at_ 0x5A 56, at_ b.entries 32, at_ b.ttype 8, at_ b.cls 4, at_ 1 0], 0, 0, 0, 0, 0, 0, 0, 0, 0, 0, 0, at_ 1 0, 0, 0]

/-- Address of a batch's record. -/
def batchRecord (slot : Nat) : Word := ctlAt (0x50000 + 0x80 * slot)

/-- R85: a batch closes. -/
def State.closeBatch (s : State) (part slot : Nat) : Except AgentStop State :=
  let p := s.part part
  match p.batches.find? (·.slot == slot) with
  | none => .ok s
  | some b =>
    let s := s.setPart part { p with batches := p.batches.map fun x => if x.slot = slot then { x with isOpen := false } else x }
    match s.agentWrite part (batchRecord slot) 128 (wordsBytes b.record) with
    | .error e => .error e
    | .ok s => s.pushRecord part b.cls (batchRecord slot)

/-- BATCH_CLOSE (R85): 512 cycles after its first spawn, or at 256 entries. -/
def execBatchClose (part slot : Nat) (s : State) : Res :=
  let p := s.part part
  match p.batches.find? fun b => b.slot == slot && b.isOpen with
  | none => .fault .notEnabled
  | some b =>
    if p.state ≠ .run || p.halt.isSome ||
        (b.entries < 256 && decide ((s.cluster b.cluster).cycles < b.since + 512)) then .fault .notEnabled
    else s.agentStep part (s.closeBatch part slot)

/-- R85 step 5: write entry `i` of a batch. -/
def State.addSpawn (s : State) (part : Nat) (b : Batch) (param entry : Word) : Except AgentStop State :=
  match s.agentWrite part (ctlAt (0x10000 + 0x1000 * b.slot + 16 * b.entries)) 16 (wordsBytes [param, entry]) with
  | .error e => .error e
  | .ok s =>
    let p := s.part part
    let b' := { b with entries := b.entries + 1 }
    let s := s.setPart part { p with batches := b' :: p.batches.filter (·.slot != b.slot) }
    if b'.entries = 256 then s.closeBatch part b.slot else .ok s

/-! ## Task types (R76) -/

/-- R76: the entry's limits and reserved fields. -/
def typeOk (w : List Word) : Bool :=
  let a := dword w 0
  let r := field a 0 5
  let f := dword w 5
  field a 49 15 == 0 && bit a 48 && field a 43 5 == 0 && field a 29 3 == 0 && field a 22 2 == 0 && field a 13 3 == 0 &&
  field a 32 11 ≤ 1024 && field a 24 5 ≤ 16 && field a 16 6 ≤ 32 && 1 ≤ field a 5 6 && field a 5 6 ≤ 32 &&
  (r == 0 || 4 ≤ r) && (dword w 1).toNat % 4 == 0 && (dword w 2).toNat % 4 == 0 &&
  field f 12 52 == 0 && field f 0 3 ≤ 4 && dword w 6 == 0 && dword w 7 == 0

/-- The fields of an entry. -/
def typeOf (w : List Word) : TaskType :=
  let a := dword w 0
  { regs := if field a 0 5 = 0 then 256 else 8 * field a 0 5
    groups := field a 5 6, cohort := field a 11 2, zslots := field a 16 6, bars := field a 24 5, spad := field a 32 11
    ctlBase := dword w 1, laneBase := dword w 2, trapV := dword w 3, ldef := dword w 4
    fmt0 := BitVec.ofNat 32 (field (dword w 5) 0 32) }

/-- Address of a type's entry. -/
def typeAddr (n : Nat) : Word := ctlAt (64 * n)

/-- Read a task-type entry; a bad one is ILLEGAL_OP, which names it. -/
def State.readType (s : State) (part n : Nat) : AgentRes TaskType :=
  match s.agentLoc part (typeAddr n) 64 .read with
  | .error e => .error e
  | .ok (loc, s) =>
    let w := (List.range 8).map fun i => s.wordAt (loc + 8 * i)
    if typeOk w then .ok (typeOf w, s) else .error (.fail causeIllegalOp (typeAddr n))

/-! ## The instructions -/

/-- R200: an instruction that an open speculative region forbids, and that a pending one holds (R216). -/
def State.taskOp (s : State) (r : Res) : Res :=
  s.unlessHeld (if s.t.speculative then s.fault causeRegionEffect 0 0 else r)

/-- R174: the task machine of the acting group's die makes the writes between `s` and `t`. -/
def State.byTasks (s t : State) : State := s.by (taskUnit (dieOf s.t.core)) t

/-- R276: the task machine has halted the partition over an instruction of the acting group, which has issued all the same. -/
def State.taskFails (s : State) (cause : BitVec 8) (addr : Word) (g : Group) : Res :=
  (s.taskHalt s.g.part cause addr 0).ctlDone g

/-- R366: TSPAWN, once the type and the completion entry have passed.  DESIGN CHOICE: where the 16 slots of the die are taken,
some of them by batches that have closed, the spawn waits for one of these to complete; it closes the oldest batch where all
are open (log 28). -/
def State.spawn (s : State) (cls ttype : Nat) (param entry : Word) : Res :=
  let part := s.g.part
  let p := s.p
  let die := dieOf s.t.core
  let mine := p.batches.filter fun b => b.slot / 16 == die
  let finish := fun (r : Except AgentStop State) =>
    match r with
    | .ok s' => (s.byTasks s').ctlDone s'.g
    | .error .wait => s.ctlWait .translate
    | .error (.fail c a) => s.taskFails c a s.g
  match mine.find? fun b => b.isOpen && b.ttype == ttype && b.cls == cls with
  | some b => finish (s.addSpawn part b param entry)
  | none =>
    match (List.range 16).find? fun i => !(mine.any fun b => b.slot == die * 16 + i) with
    | some i =>
      let cl := clusterOf s.t.core
      let b : Batch := { slot := die * 16 + i, ttype, cls, entries := 0, isOpen := true, order := p.nextBatch, cluster := cl
                         since := (s.cluster cl).cycles }
      finish ((s.setP { p with nextBatch := p.nextBatch + 1 }).addSpawn part b param entry)
    | none =>
      let oldest := (mine.filter (·.isOpen)).foldl (fun (x : Option Batch) b =>
        match x with
        | some y => if b.order < y.order then some b else some y
        | none => some b) none
      match oldest with
      | some b =>
        if mine.all (·.isOpen) then
          match s.closeBatch part b.slot with
          | .ok s' => (s.byTasks s').ctlWait .engineFull
          | .error .wait => s.ctlWait .engineFull
          | .error (.fail c a) => s.taskFails c a s.g
        else s.ctlWait .engineFull
      | none => s.ctlWait .engineFull

/-- R85, R366: TSPAWN. -/
def execTspawn (a b : BitVec 6) (cls : BitVec 3) (ttype : BitVec 8) (s : State) : Res :=
  s.taskOp <|
    match s.g.memHold [] with
    | some w => s.ctlWait w
    | none =>
      match s.readType s.g.part ttype.toNat with
      | .error .wait => s.ctlWait .translate
      | .error (.fail c x) => if c = causeIllegalOp then s.fault c x 0 else s.taskFails c x s.g
      | .ok (_, s) =>
        let entry := s.g.getK b
        if field entry 57 7 ≠ 0 then s.fault causeIllegalOp (typeAddr ttype.toNat) 0
        else s.spawn cls.toNat ttype.toNat (s.g.getK a) entry

/-- R367: TDEC. -/
def execTdec (a b : BitVec 6) (s : State) : Res :=
  s.taskOp <|
    match s.g.memHold [s.g.st] with
    | some w => s.ctlWait w
    | none =>
      let addr := s.g.getK a
      let n := s.g.getK b
      let s := s.askPage s.g.team addr 8
      match s.check s.g.team addr 8 .write false with
      | .fault c => s.fault c addr 32
      | .busy => s.ctlWait .translate
      | .ok t marks skip starve =>
        if t.isWindow then s.fault causeBadWindow addr 32
        else if n = 0 then (s.applyMarks marks skip starve).ctlDone (s.applyMarks marks skip starve).g
        else if s.lockWait t.loc 8 true then s.ctlWait .txCommit
        else
          let s' := (((s.applyMarks marks skip starve).holdLine s.g.part t true).keepPast t.loc 8).syncFor t
          let done := fun (s' : State) (fl : Flight) => s'.ctlDone (s'.g.addFlight false true fl)
          if t.isNonCoherent then
            if s.atomicFails t then s.fault causeHostAbort addr 32
            else done s' { nonCoherent := true, late := [t.lateAccess 32 addr 8 (.dec s.g.part addr n) .none] }
          else if t.isSystem then done (s'.hostAdd s.g.part addr t.loc n) {}
          else
            match s'.decrement s.g.part addr t.loc n with
            | .ok s' => done s' {}
            | .error _ => s.ctlWait .translate

/-- R81, R83: a claim of launch `l` by the acting group's team: the chunk, and the state after it. -/
def State.claim (s : State) (l : Launch) : AgentRes (Word × Word) :=
  if l.finished || !l.range then .ok ((0, 0), s)
  else if l.draw then
    match s.agentLoc s.g.part l.record 128 .write with
    | .error e => .error e
    | .ok (loc, s) =>
      let cursor := (s.wordAt (loc + 0x30)).toNat
      let hi := (s.wordAt (loc + 0x20)).toNat
      let a := l.started - l.retired
      if hi ≤ cursor then .ok ((0, 0), s)
      else
        let c := l.grain * max 1 ((hi - cursor) / (2 * a * l.grain))
        let b := min (cursor + c) hi
        .ok ((BitVec.ofNat 64 cursor, BitVec.ofNat 64 b), s.commitBytes (loc + 0x30) (leBytes 8 b))
  else
    let (c, e) := l.ivs.get (0, 0) s.t.unit
    if e ≤ c then .ok ((0, 0), s)
    else
      let b := min (c + l.grain) e
      .ok ((BitVec.ofNat 64 c, BitVec.ofNat 64 b), s.mapLaunch s.t.part l.id fun l => { l with ivs := l.ivs.put s.t.unit (b, e) })

/-- R368: RCLAIM.  What it delivers where the task machine's access fails is open: a free value (log 109). -/
def execRclaim (a : BitVec 6) (s : State) : Res :=
  if a.getLsbD 0 then s.illegal
  else
    s.taskOp <|
      match s.launchOf s.t with
      | none => s.ctlDone (s.g.setK a 0 |>.setK (a + 1) 0)
      | some l =>
        match s.claim l with
        | .error .wait => s.ctlWait .engineFull
        | .error (.fail c x) =>
          let open_ := fun i => BitVec.ofNat 64 (Config.choice s.free i)
          s.taskFails c x ((s.g.setK a (open_ 62)).setK (a + 1) (open_ 63))
        | .ok ((x, y), s') => s'.ctlDone ((s.g.setK a x).setK (a + 1) y)

/-- R84, R369: TFIN; the units not yet placed are not placed, and the record leaves its queue. -/
def execTfin (c : BitVec 8) (s : State) : Res :=
  s.taskOp <|
    match s.launchOf s.t with
    | none => s.ctlDone s.g
    | some l =>
      if l.finished then s.ctlDone s.g
      else
        let r : Except AgentStop State := match s.agentLoc s.g.part l.record 128 .write with
          | .error e => .error e
          | .ok (loc, s) =>
            let st := s.wordAt (loc + 0x68) &&& ~~~(at_ 0xFF 16)
            let s := s.commitBytes (loc + 0x68) (wordBytes 8 (st ||| at_ c.toNat 16 ||| at_ 1 15))
            let s := s.mapLaunch s.g.part l.id fun l => { l with finished := true }
            let s := s.setP { s.p with holds := s.p.holds.filter fun h => h.team.isSome || h.record != l.record }
            (s.popRecord s.g.part (s.p.queueOf l.record l.cls) l.record).map s.byTasks
        match r with
        | .ok s' => s'.ctlDone s'.g
        | .error .wait => s.ctlWait .translate
        | .error (.fail x a) => s.taskFails x a s.g

end Sys2Proof.Machine
end

