-- ==== Sys2Proof/Machine/Dispatcher.lean ====
section
/-! DEFINITION. Sys2Proof/Machine/Dispatcher.lean: the dispatchers (R77, R78, R81-R84, R91-R99, R105-R108): what a core
has free, where a unit fits, the state a team starts in, and the events DISPATCH_UNIT, NET_ENQUEUE, RANGE_SPLIT and
RESIDENCE_MARK. -/

namespace Sys2Proof.Machine

/-! ## What a core has free (R78, R93) -/

/-- Runs in use: first unit and length. -/
abbrev Runs := List (Nat × Nat)

/-- What is in use on a core. -/
structure Occupied where
  /-- Group slots: port and slot. -/
  seats : List (Nat × Nat) := []
  /-- Register rows: port, first row and number. -/
  rows : List (Nat × Nat × Nat) := []
  /-- Scratchpad units. -/
  spad : Runs := []
  /-- Accumulator slots. -/
  z : Runs := []
  /-- Barrier registers. -/
  bar : Runs := []
  deriving DecidableEq, Repr

/-- Add an allotment. -/
def Occupied.add (o : Occupied) (a : Allot) : Occupied :=
  { seats := a.seats ++ o.seats, rows := a.rows ++ o.rows, spad := (a.spad, a.spadN) :: o.spad, z := (a.z, a.zN) :: o.z
    bar := (a.bar, a.barN) :: o.bar }

/-- R78: the lowest-addressed free run of `n` units. -/
def firstFit (used : Runs) (cap n : Nat) : Option Nat :=
  if n = 0 then some 0
  else
    let free := fun (x : Nat) => decide (x + n ≤ cap) && used.all fun (a, l) => l == 0 || decide (x + n ≤ a) || decide (a + l ≤ x)
    ((0 :: used.map fun (a, l) => a + l).filter free).min?

/-- Free group slots of a port, ascending. -/
def Occupied.slots (o : Occupied) (port : Nat) : List Nat := (List.range 16).filter fun s => !o.seats.contains (port, s)

/-- Free group slots of a core. -/
def Occupied.freeSlots (o : Occupied) : Nat := ((List.range 4).map fun p => (o.slots p).length).foldl (· + ·) 0

/-- R96: groups that a team whose group 0 goes to `p0` has on `port`. -/
def groupsOn (groups p0 port : Nat) : Nat := ((List.range groups).filter fun g => (p0 + g) % 4 == port).length

/-- R96: the rows of a team on each port. -/
def Occupied.fitRows (o : Occupied) (ty : TaskType) (p0 : Nat) : Option (List (Nat × Nat × Nat)) :=
  (List.range 4).foldl (fun acc p =>
    match acc with
    | none => none
    | some rs =>
      let n := groupsOn ty.groups p0 p * ty.regs
      if n = 0 then some rs
      else (firstFit ((o.rows.filter (·.1 == p)).map (·.2)) 1024 n).map fun x => rs ++ [(p, x, n)]) (some [])

/-- R96: the team fits with its group 0 on port `p0`. -/
def Occupied.fitAt (o : Occupied) (ty : TaskType) (p0 : Nat) : Option Allot :=
  if (List.range 4).any fun p => decide ((o.slots p).length < groupsOn ty.groups p0 p) then none
  else
    match o.fitRows ty p0, firstFit o.spad 1024 ty.spad, firstFit o.z 32 ty.zslots, firstFit o.bar 256 ty.bars with
    | some rows, some spad, some z, some bar =>
      some { seats := (List.range ty.groups).map fun g => ((p0 + g) % 4, (o.slots ((p0 + g) % 4)).getD (g / 4) 0)
             rows, spad, spadN := ty.spad, z, zN := ty.zslots, bar, barN := ty.bars }
    | _, _, _, _ => none

/-- R96: the starting ports in the order they are tried. -/
def Occupied.startPorts (o : Occupied) : List Nat :=
  let best := (List.range 4).foldl (fun b p => if (o.slots b).length < (o.slots p).length then p else b) 0
  best :: (List.range 4).filter (· != best)

/-- R96: the allotment of a team on a core. -/
def Occupied.fit (o : Occupied) (ty : TaskType) : Option Allot := o.startPorts.findSome? (o.fitAt ty)

/-- Everything but an allotment. -/
def Allot.outside (a : Allot) : Occupied :=
  let gap := fun (x n cap : Nat) => [(0, x), (x + n, cap - (x + n))]
  { seats := (List.range 4).flatMap fun p => ((List.range 16).map fun s => (p, s)).filter fun x => !a.seats.contains x
    rows := (List.range 4).flatMap fun p =>
      match a.rows.find? (·.1 == p) with
      | some (_, x, n) => [(p, 0, x), (p, x + n, 1024 - (x + n))]
      | none => [(p, 0, 1024)]
    spad := gap a.spad a.spadN 1024, z := gap a.z a.zN 32, bar := gap a.bar a.barN 256 }

/-- A team whose allotment is not free: on its core, or pre-empted for a beneficiary that has not been placed (R105). -/
def State.keeps (s : State) (k : Nat) (t : Team) : Bool :=
  t.phase == .resident || t.phase == .saving || t.phase == .killing || t.phase == .done ||
  (t.phase == .saved && (s.part t.part).holds.any fun h => h.victims.contains k)

/-- R105: the allotments on a core that are held for a beneficiary, but for the one whose victims `skip` names. -/
def State.heldOn (s : State) (core : Nat) (skip : List Nat) : List Allot :=
  s.parts.flatMap fun (_, p) => (p.holds.filter fun h => !h.victims.any skip.contains).flatMap fun h =>
    (h.place.filter fun x => x.1 == core && !x.2.2).map (·.2.1)

/-- What is in use on a core, the teams of `skip` left out; with the reserved set, which only its own use sees free. -/
def State.occupied (s : State) (core : Nat) (skip : List Nat) : Occupied :=
  let o := (s.teams.filter fun (k, t) => t.core == core && s.keeps k t && !skip.contains k).foldl
    (fun (o : Occupied) x => o.add x.2.allot) {}
  let o := (s.heldOn core skip).foldl Occupied.add o
  match (s.core core).resv with
  | some a => o.add a
  | none => o

/-- R93: a place in the core's reserved set, which one team uses at a time (log 81). -/
def State.fitReserved (s : State) (core : Nat) (skip : List Nat) (ty : TaskType) : Option Allot :=
  match (s.core core).resv with
  | some a =>
    let held := s.parts.any fun (_, p) => p.holds.any fun h =>
      !h.victims.any skip.contains && h.place.any fun x => x.1 == core && x.2.2
    if held || s.teams.any fun (k, t) => t.core == core && t.reserved && s.keeps k t && !skip.contains k then none
    else a.outside.fit ty
  | none => none

/-! ## Where a unit fits (R95-R97) -/

/-- R95: a core is eligible for the partition's units. -/
def State.eligible (s : State) (part core : Nat) : Bool :=
  bit ((s.part part).page.cores.get 0 (dieOf core)) (core % 64) && !bit (s.pkg.fence.get 0 (dieOf core)) (core % 64)

/-- A place for a unit: core and allotment of each member, with the use of the reserved set. -/
abbrev Place := List (Nat × Allot × Bool)

/-- The places of a unit's members on given cores. -/
def State.fitCores (s : State) (part : Nat) (skip : List Nat) (ty : TaskType) (reserve : Bool) (cores : List Nat) : Option Place :=
  cores.foldl (fun acc c =>
    match acc with
    | none => none
    | some ps =>
      if !s.eligible part c then none
      else
        match (s.occupied c skip).fit ty with
        | some a => some (ps ++ [(c, a, false)])
        | none => if reserve then (s.fitReserved c skip ty).map fun a => ps ++ [(c, a, true)] else none) (some [])

/-- The cores of a candidate: one core, or those of a cluster for a cohort. -/
def candidateCores (die : Nat) (ty : TaskType) : List (List Nat) :=
  if ty.cohort = 0 then (List.range 64).map fun c => [die * 64 + c]
  else (List.range 16).map fun cl => (List.range (ty.cohort + 1)).map fun m => die * 64 + cl * 4 + m

/-- R93, R96: the place of a unit of class `cls` on some cores. -/
def State.fitUnit (s : State) (part cls : Nat) (ty : TaskType) (cores : List Nat) : Option Place :=
  match s.fitCores part [] ty false cores with
  | some p => some p
  | none => if cls = 0 then s.fitCores part [] ty true cores else none

/-- R96, R97: the best place on a die: the most free group slots, then the lowest number. -/
def State.fitDie (s : State) (part die : Nat) (skip : List Nat) (ty : TaskType) (reserve : Bool) : Option Place :=
  let free := fun (p : Place) => (p.map fun x => (s.occupied x.1 skip).freeSlots).foldl (· + ·) 0
  ((candidateCores die ty).filterMap (s.fitCores part skip ty reserve)).foldl (fun (b : Option Place) p =>
    match b with
    | none => some p
    | some q => if free q < free p then some p else b) none

/-- R93, R96, R97: the place a unit of class `cls` would take on a die. -/
def State.placeOn (s : State) (part die cls : Nat) (skip : List Nat) (ty : TaskType) : Option Place :=
  match s.fitDie part die skip ty false with
  | some p => some p
  | none => if cls = 0 then s.fitDie part die skip ty true else none

/-! ## Launches -/

/-- R81: the interval of unit `j` of `t` units over `n` grains. -/
def splitInterval (lo hi grain n t j : Nat) : Nat × Nat := (lo + grain * (j * n / t), min hi (lo + grain * ((j + 1) * n / t)))

/-- The launch of a record, as its words stand. -/
def launchFrom (id : Nat) (rec : Word) (w : List Word) (slot : Option Nat) : Launch :=
  let range := recKind w == 2
  let draw := field (dword w 1) 16 2 == 1
  let lo := (dword w 3).toNat
  let hi := (dword w 4).toNat
  let grain := (dword w 5).toNat
  let n := (hi - lo + grain - 1) / grain
  let split := range && !draw
  let units := if split then min (recUnits w) n else recUnits w
  { id, record := rec, range, draw, ttype := recType w, cls := recClass w, units, nextUnit := units
    grain := if range then grain else 1
    ivs := if split then (List.range units).map fun j => (j, splitInterval lo hi grain n units j) else []
    param := dword w 2, hkey := BitVec.ofNat 32 (field (dword w 12) 0 32), trec := dword w 14, slot }

/-- What stands at the head of a class (R77, R107). -/
inductive Head where
  /-- A pre-empted team, by member 0 of its cohort. -/
  | team (key : Nat)
  /-- A launch, begun or not. -/
  | launch (l : Launch) (new : Bool)
  /-- A network record. -/
  | net (rec : Word)
  /-- A record with no unit to place, which completes: a NOP or an empty RANGE (R72, R79). -/
  | empty (rec : Word) (loc : Nat)
  deriving DecidableEq, Repr

/-- The launch of a record at the head of a queue. -/
def State.headRecord (s : State) (part : Nat) (rec : Word) : AgentRes Head :=
  let p := s.part part
  match p.launches.find? (·.record == rec) with
  | some l => .ok (.launch l false, s)
  | none =>
    match s.agentLoc part rec 128 .read with
    | .error e => .error e
    | .ok (loc, s) =>
      let w := s.recordWords loc
      if !recordOk w then .error (.fail causeIllegalOp rec)
      else if recKind w = 0 || emptyRange w then .ok (.empty rec loc, s)
      else if 3 ≤ recKind w then .ok (.net rec, s)
      else
        let slot := (p.batches.find? fun b => !b.isOpen && batchRecord b.slot == rec).map (·.slot)
        .ok (.launch (launchFrom p.nextLaunch rec w slot) true, s)

/-- The head of class `k`. -/
def State.headOf (s : State) (part k : Nat) : AgentRes (Option Head) :=
  let p := s.part part
  match p.readmit.get [] k, p.queues.get [] k with
  | t :: _, _ => .ok (some (.team t), s)
  | [], rec :: _ =>
    match s.headRecord part rec with
    | .error e => .error e
    | .ok (h, s) => .ok (some h, s)
  | [], [] => .ok (none, s)

/-! ## The state a team starts in (R91, R116) -/

/-- R91: a group at its unit's first instruction. -/
def freshGroup (part key g : Nat) (ty : TaskType) (seat : Nat × Nat) : Group :=
  { part, team := key, idx := g, port := seat.1, slot := seat.2, cpc := ty.ctlBase, fmt := ty.fmt0, lfmt := ty.fmt0 }

/-- R101: the rotation pointers of a team that is admitted with these seats. -/
def seatPointers (seats : List (Nat × Nat)) : SMap Nat :=
  (List.range 4).foldl (fun m port =>
    match ((seats.filter (·.1 == port)).map (·.2)).min? with
    | some x => SMap.set 0 (SMap.set 0 m (2 * port) x) (2 * port + 1) x
    | none => m) []

/-- R99: a team joins its core's team queue, and its groups their slots. -/
def State.seatTeam (s : State) (key : Nat) (t : Team) (fresh : Bool) : State :=
  let c := s.core t.core
  let now := (s.cluster (clusterOf t.core)).cycles
  let s := (s.setTeam key { t with pointers := seatPointers t.allot.seats, ahead := [] }).setCore t.core { c with teamQ := c.teamQ ++ [key] }
  let s := foldState t.allot.seats s fun x s => s.wakePort t.core x.1
  let s := foldState t.allot.seats.zipIdx s fun x s =>
    s.mapGroup (key * 32 + x.2) fun g =>
      { (if fresh then freshGroup t.part key x.2 t.type x.1 else g) with port := x.1.1, slot := x.1.2, sampled := now }
  s.traceEvent t.part (dieOf t.core) (if fresh then 0x11 else 0x15)
    (gidOf t.core (t.allot.seats.headD (0, 0)).1 (t.allot.seats.headD (0, 0)).2 + (if fresh then 0 else 2 ^ 14)) none

/-- R91, R97: the teams of a unit start. -/
def State.startUnit (s : State) (part : Nat) (l : Launch) (ty : TaskType) (unit : Nat) (param completion : Word) (place : Place) :
    State :=
  let first := s.nextTeam
  let s := { s with nextTeam := first + place.length }
  foldState place.zipIdx s fun x s =>
    let ((core, allot, reserved), m) := x
    let now := s.nsNow.toNat
    s.seatTeam (first + m)
      { part, launch := l.id, unit, member := m, cohort := first, cls := l.cls, ttype := l.ttype, type := ty, param, completion, core
        allot, reserved, phase := .resident, admitNs := now, lastAdmitNs := now
        slots := (List.range ty.zslots).map fun z => (z, { base := .free ((first + m) * 32 + z) }) } true

/-- R85: the parameter pointer and the completion entry of unit `i` of a merged launch; a record's own PARAM otherwise. -/
def State.unitParam (s : State) (part : Nat) (l : Launch) (i : Nat) : AgentRes (Word × Word) :=
  match l.slot with
  | none => .ok ((l.param, 0), s)
  | some b =>
    match s.agentLoc part (ctlAt (0x10000 + 0x1000 * b + 16 * i)) 16 .read with
    | .error e => .error e
    | .ok (loc, s) => .ok ((s.wordAt loc, s.wordAt (loc + 8)), s)

/-- R77: the next unit of a launch is placed: the record becomes RUNNING with its first unit and leaves its queue with
its last. -/
def State.placeUnit (s : State) (part : Nat) (l : Launch) (new : Bool) (ty : TaskType) (place : Place) : Except AgentStop State :=
  match s.unitParam part l l.next with
  | .error e => .error e
  | .ok ((param, completion), s) =>
    let p := s.part part
    let l' := { l with next := l.next + 1, started := l.started + place.length }
    let s := s.setPart part (if new then { p with launches := p.launches ++ [l'], nextLaunch := p.nextLaunch + 1 }
      else { p with launches := p.launches.map fun x => if x.id = l.id then l' else x })
    let s := s.startUnit part l ty l.next param completion place
    let begun : Except AgentStop State := if l.next = 0 then
        match s.agentLoc part l.record 128 .write with
        | .error e => .error e
        | .ok (loc, s) => .ok (s.setRecordState loc 2)
      else .ok s
    match begun with
    | .error e => .error e
    | .ok s => if l'.units ≤ l'.next then s.popRecord part ((s.part part).queueOf l.record l.cls) l.record else .ok s

/-! ## DISPATCH_UNIT -/

/-- What one examination of a die's dispatcher comes to. -/
inductive Choice where
  /-- A new unit goes to a place. -/
  | unit (l : Launch) (new : Bool) (ty : TaskType) (place : Place)
  /-- A pre-empted team is re-admitted at a place. -/
  | readmit (key : Nat) (place : Place)
  /-- A record of class `cls` without units completes (R72). -/
  | finish (cls : Nat) (rec : Word) (loc : Nat)
  deriving DecidableEq, Repr

/-- A place for the head of class `k` on a die, among what the victims of `skip` free as well. -/
def State.chooseHead (s : State) (part die k : Nat) (skip : List Nat) : Option Head → AgentRes (Option Choice)
  | some (.team key) => .ok ((s.placeOn part die k skip (s.team key).type).map (.readmit key), s)
  | some (.launch l new) =>
    if l.finished || l.units ≤ l.next then .ok (none, s)
    else
      match s.readType part l.ttype with
      | .error e => .error e
      | .ok (ty, s) => .ok ((s.placeOn part die k skip ty).map (.unit l new ty), s)
  | some (.empty rec loc) => .ok (some (.finish k rec loc), s)
  | _ => .ok (none, s)

/-- R77: the first class, from `k` on, whose head fits; a class with a place held for its head waits for it. -/
def State.examineFrom (part die : Nat) : Nat → State → Nat → AgentRes (Option Choice)
  | 0, s, _ => .ok (none, s)
  | n + 1, s, k =>
    if (s.part part).holds.any (·.cls == k) then State.examineFrom part die n s (k + 1)
    else
      match s.headOf part k with
      | .error e => .error e
      | .ok (h, s) =>
        match s.chooseHead part die k [] h with
        | .error e => .error e
        | .ok (some c, s) => .ok (some c, s)
        | .ok (none, s) => State.examineFrom part die n s (k + 1)

/-- R105: a hold whose victims have all been saved. -/
def State.holdReady (s : State) (h : Hold) : Bool := h.victims.all fun k =>
    (s.team k).phase == .saved || (s.team k).phase == .absent || (s.team k).phase == .done

/-- R105: the place of a hold, on the core or cluster whose victims were pre-empted. -/
def State.heldPlace (s : State) (part : Nat) (h : Hold) (ty : TaskType) : Option Place :=
  let cores := if ty.cohort = 0 then [h.core] else (List.range (ty.cohort + 1)).map (h.core + ·)
  match s.fitCores part h.victims ty false cores with
  | some p => some p
  | none => if h.cls = 0 then s.fitCores part h.victims ty true cores else none

/-- R105: the beneficiary of a hold, in the place held for it. -/
def State.chooseHeld (s : State) (part : Nat) (h : Hold) : AgentRes (Option Choice) :=
  match h.team with
  | some key => .ok ((s.heldPlace part h (s.team key).type).map (.readmit key), s)
  | none =>
    match s.headRecord part h.record with
    | .error e => .error e
    | .ok (.launch l new, s) =>
      if l.finished || l.units ≤ l.next then .ok (none, s)
      else
        match s.readType part l.ttype with
        | .error e => .error e
        | .ok (ty, s) => .ok ((s.heldPlace part h ty).map (.unit l new ty), s)
    | .ok (_, s) => .ok (none, s)

/-- R77, R105, R107: what a die's dispatcher would place next. -/
def State.examine (s : State) (part die : Nat) : AgentRes (Option Choice) :=
  match (s.part part).holds.find? fun h => dieOf h.core == die && s.holdReady h with
  | some h => s.chooseHeld part h
  | none => State.examineFrom part die 8 s 0

/-- R105: the hold that a choice was made for is over. -/
def State.dropHold (s : State) (part die : Nat) : State :=
  let p := s.part part
  match p.holds.find? fun h => dieOf h.core == die && s.holdReady h with
  | some h => s.setPart part { p with holds := p.holds.erase h }
  | none => s

/-- DISPATCH_UNIT (R77, R95-R97): a die's dispatcher places the unit that heads the first class it can place, or completes
a record there that has no unit. -/
def execDispatchUnit (part die : Nat) (s : State) : Res :=
  if !s.dispatching part || 4 ≤ die then .fault .notEnabled
  else
    match s.examine part die with
    | .error e => s.agentStep part (.error e)
    | .ok (some (.unit l new ty place), s') =>
      (s'.dropHold part die).agentStep part ((s'.dropHold part die).placeUnit part l new ty place)
    | .ok (some (.finish cls rec loc), s') =>
      s'.agentStep part ((s'.finishRecord part rec loc (s'.recordWords loc)).popRecord part cls rec)
    | .ok _ => .fault .notEnabled

/-- NET_ENQUEUE (R77): a network record at the head of its class moves to the network engine's queue. -/
def execNetEnqueue (part cls : Nat) (s : State) : Res :=
  if !s.dispatching part || 8 ≤ cls || 1024 ≤ (s.part part).netQ.length then .fault .notEnabled
  else
    match s.headOf part cls with
    | .error e => s.agentStep part (.error e)
    | .ok (some (.net rec), s) =>
      let p := s.part part
      let s := s.setPart part { p with netQ := p.netQ ++ [rec] }
      s.agentStep part (s.popRecord part cls rec)
    | .ok _ => .fault .notEnabled

/-! ## RANGE_SPLIT (R82) -/

/-- Grains left in an interval. -/
def grainsLeft (grain : Nat) (iv : Nat × Nat) : Nat := (iv.2 - iv.1 + grain - 1) / grain

/-- R82: the interval with the most grains left: launch, unit and grains; a launch that has 65,535 units is left out, and an
interval whose unit has retired counts (log 79). -/
def Partition.widest (p : Partition) : Option (Launch × Nat × Nat) :=
  (p.launches.filter fun l => l.range && !l.draw && !l.finished && decide (l.nextUnit < 65535)).foldl (fun b l =>
    l.ivs.foldl (fun (b : Option (Launch × Nat × Nat)) iv =>
      let m := grainsLeft l.grain iv.2
      if m < 2 then b
      else
        match b with
        | some (_, _, x) => if x < m then some (l, iv.1, m) else b
        | none => some (l, iv.1, m)) b) none

/-- RANGE_SPLIT (R82): an idle core takes half of the widest interval as a new unit, unless a pre-empted team of its class
comes first (R107). -/
def execRangeSplit (part core : Nat) (s : State) : Res :=
  let p := s.part part
  let idle := s.eligible part core && !(s.teams.any fun (k, t) => t.core == core && s.keeps k t)
  let empty := (List.range 8).all fun k => (p.queues.get [] k).isEmpty
  if !s.dispatching part || !idle || !empty || 256 ≤ core then .fault .notEnabled
  else
    match p.widest with
    | none => .fault .notEnabled
    | some (l, u, m) =>
      if !(p.readmit.get [] l.cls).isEmpty then .fault .notEnabled
      else match s.readType part l.ttype with
      | .error e => s.agentStep part (.error e)
      | .ok (ty, s) =>
        let cores := if ty.cohort = 0 then [core] else (List.range (ty.cohort + 1)).map fun i => core / 4 * 4 + i
        match if cores.contains core then s.fitUnit part l.cls ty cores else none with
        | none => .fault .notEnabled
        | some place =>
          let (c, e) := l.ivs.get (0, 0) u
          let mid := c + l.grain * ((m + 1) / 2)
          let l' := { l with ivs := (l.ivs.put u (c, mid)).put l.nextUnit (mid, e), nextUnit := l.nextUnit + 1, units := l.units + 1
                             next := l.next + 1, started := l.started + place.length }
          let s := s.mapLaunch part l.id fun _ => l'
          .next (s.startUnit part l ty l.nextUnit l.param 0 place)

/-- RESIDENCE_MARK (R104, R108): a team has been resident for 2 ms since its last admission. -/
def execResidenceMark (team : Nat) (s : State) : Res :=
  let t := s.team team
  if t.phase ≠ .resident || t.marked || decide (s.nsNow.toNat < t.lastAdmitNs + 2000000) then .fault .notEnabled
  else .next (s.setTeam team { t with marked := true })

end Sys2Proof.Machine
end

