-- ==== Sys2Proof/Machine/Flags.lean ====
section
/-! DEFINITION. Sys2Proof/Machine/Flags.lean: the conditions of the machine (R303, R323, R382, R383).  The NL7 has no
flags register: a comparison writes a predicate, a lane register or a mask, and keeps no IEEE flags (R250). -/

namespace Sys2Proof.Machine

/-- R303: the conditions 0 EQ, 1 NE, 2 LT, 3 GE, 4 LTU, 5 GEU, 6 LE, 7 GT. -/
def intCond {w : Nat} (c : BitVec 3) (a b : BitVec w) : Bool :=
  match c.toNat with
  | 0 => a == b
  | 1 => a != b
  | 2 => a.slt b
  | 3 => !a.slt b
  | 4 => a.ult b
  | 5 => !a.ult b
  | 6 => !b.slt a
  | _ => b.slt a

/-- R382: the conditions 0 EQ, 1 NE, 2 LT, 3 LE, 4 GT, 5 GE, 6 UNORD, 7 ORD. -/
def floatCond (c : Nat) (a b : FVal) : Bool :=
  if a = .nan || b = .nan then c == 1 || c == 6
  else
    let d := fcmp a b
    match c with
    | 0 => d == 0
    | 1 => d != 0
    | 2 => d < 0
    | 3 => d ≤ 0
    | 4 => 0 < d
    | 5 => 0 ≤ d
    | 6 => false
    | _ => true

/-- R383: the class bit of an encoding. -/
def floatClass (f : Fmt) (bits : Nat) : Nat :=
  match f.decode bits with
  | .nan => 8
  | .inf n => if n then 0 else 7
  | .fin n m e =>
    if m = 0 then (if n then 3 else 4)
    else if expOf m e < f.emin then (if n then 2 else 5)
    else if n then 1 else 6

end Sys2Proof.Machine
end

