-- ==== Sys2Proof/Machine/Operands.lean ====
section
/-! DEFINITION. Sys2Proof/Machine/Operands.lean: every operand form of the lane words (R119, R120, R128-R132, R311, R370,
R371, R384), what a lane word does to its registers, and the significance trap (R265). -/

namespace Sys2Proof.Machine

/-- R124, R144: the block in progress ends; in the handler its position is free again. -/
def Group.endBlock (g : Group) : Group :=
  { g with running := false, stack := [], skip := 0, lwait := none
           handlerBlock := if g.inHandler then none else g.handlerBlock }

/-! ## Which lanes execute -/

/-- R119: the lanes outside LIVE whose quad holds a lane of CUR. -/
def Group.helpers (g : Group) : Word32 :=
  maskOf fun i => !lane g.live i && (List.range 4).any fun j => lane g.cur (i / 4 * 4 + j)

/-- R119: the execution mask. -/
def Group.execMask (g : Group) : Word32 := g.cur ||| g.helpers

/-- R132: the lanes a guard selects. -/
def Group.guardMask (g : Group) (x : Guard) : Word32 := if x.neg then ~~~g.getM x.m else g.getM x.m

/-- The lanes in which a guarded word executes. -/
def Group.active (g : Group) (x : Guard) : Word32 := g.execMask &&& g.guardMask x

/-- R397, R401: the contributing lanes: lanes of CUR whose guard is true. -/
def Group.contributors (g : Group) (x : Guard) : Word32 := g.cur &&& g.guardMask x

/-! ## Reading -/

/-- The register of a v or o file in a lane. -/
def Group.reg (g : Group) (x : Operand) (k i : Nat) : LaneVal :=
  match x with
  | .v n => g.v.get {} ((n.toNat + k) * 32 + i)
  | .o n => g.o.get {} ((n.toNat + k) * 32 + i)
  | _ => {}

/-- The bits of `n` registers from a base, low register first. -/
def Group.regBits (g : Group) (x : Operand) (i : Nat) : Nat → Nat
  | 0 => 0
  | n + 1 => g.regBits x i n + (g.reg x n i).bits.toNat * 2 ^ (32 * n)

/-- The integer value of a constant in lane `i`. -/
def constantOf (x : Operand) (i tid : Nat) : Nat :=
  match x with
  | .one => 1
  | .laneid => i
  | .quadid => i / 4
  | .groupid => tid % 2 ^ 32
  | _ => 0

/-- R130, R131, R311: the bits of an operand read at `n` registers' width as an integer or as raw bits. -/
def Group.readInt (g : Group) (f : LaneFields) (x : Operand) (i n : Nat) : Nat :=
  match x with
  | .v _ | .o _ => g.regBits x i n
  | .l k => (g.l.get {} (k.toNat * 32 + i)).bits.toNat % 2 ^ (32 * n)
  | .a k => (g.a.get 0 k.toNat).toNat % 2 ^ (32 * n)
  | .imm => if n = 1 then f.imm.toNat else (f.imm.signExtend 64).toNat
  | c => constantOf c i g.idx

/-- R311: the bits of an operand read as one scalar of float format `code` (0x0 to 0x8). -/
def Group.readFloat (g : Group) (f : LaneFields) (x : Operand) (i code : Nat) : Nat :=
  match x with
  | .v _ | .o _ | .l _ | .a _ => g.readInt f x i (if code = 1 then 2 else 1) % 2 ^ (fmtOf code).width
  | .imm => if code = 1 then fp64.encode (fp32.decode f.imm.toNat) else f.imm.toNat % 2 ^ (fmtOf code).width
  | c => (fmtOf code).encode (ofInt (constantOf c i g.idx) 0)

/-- R311: a packed 16-bit read: element 0 and element 1. -/
def Group.readPair (g : Group) (f : LaneFields) (x : Operand) (i code : Nat) : Nat × Nat :=
  match x with
  | .v _ | .o _ | .l _ | .a _ | .imm =>
    let b := g.readInt f x i 1
    (b % 2 ^ 16, b / 2 ^ 16)
  | c => let b := (fmtOf code).encode (ofInt (constantOf c i g.idx) 0)
         (b, b)

/-- The stored tag of an operand; nothing for an a register, imm32 or a constant (R131). -/
def Group.storedTag (g : Group) (x : Operand) (i : Nat) : Option Tag :=
  match x with
  | .v _ | .o _ => some (g.reg x 0 i).tag
  | .l k => some (g.l.get {} (k.toNat * 32 + i)).tag
  | _ => none

/-- R131, R263: the tag of a floating-point source of precision `p`. -/
def Group.floatTag (g : Group) (x : Operand) (i p : Nat) : Nat :=
  match g.storedTag x i with
  | some t => min t.toNat p
  | none => p

/-- The tag a move carries: the stored tag, 0 for an operand that stores none (log 12). -/
def Group.moveTag (g : Group) (x : Operand) (i : Nat) : Tag := (g.storedTag x i).getD 0

/-- The value of a scalar float source as a flushing operation reads it, with its tag. -/
def Group.floatVal (g : Group) (f : LaneFields) (x : Operand) (i code : Nat) : TVal :=
  let F := fmtOf code
  ⟨F.flushSource (fmtBits g.lfmt) (F.decode (g.readFloat f x i code)), g.floatTag x i F.p⟩

/-! ## Writing -/

/-- R128: write one register of a v or o file. -/
def Group.setReg (g : Group) (x : Operand) (k i : Nat) (v : LaneVal) : Group :=
  match x with
  | .v n => { g with v := SMap.set {} g.v ((n.toNat + k) * 32 + i) v }
  | .o n => { g with o := SMap.set {} g.o ((n.toNat + k) * 32 + i) v }
  | _ => g

/-- R128: write `n` registers: the tag to the base, 0 to the others. -/
def Group.writeRegs (g : Group) (x : Operand) (i bits : Nat) (tag : Tag) : Nat → Group
  | 0 => g
  | n + 1 => (g.writeRegs x i bits tag n).setReg x n i
      ⟨BitVec.ofNat 32 (bits / 2 ^ (32 * n)), if n = 0 then tag else 0⟩

/-- R130: shift the last-result file after a word whose destination is `n` registers from `x`. -/
def Group.shiftLast (g : Group) (x : Operand) (n : Nat) : Group :=
  let old : SMap LaneVal64 := (g.l.filter fun e => e.1 < 96).map fun e => (e.1 + 32, e.2)
  { g with l := lanes.reverse.foldl (fun m i => SMap.set {} m i
      ⟨BitVec.ofNat 64 (g.regBits x i (min n 2)), (g.reg x 0 i).tag⟩) old }

/-- R127: no operand names a register beyond the type's file. -/
def inFile (f : LaneFields) (n : Nat) : Bool :=
  let ok := fun (x : Operand) => match x with
    | .v k => decide (k.toNat < n)
    | _ => true
  ok f.dst && ok f.a && ok f.b && ok f.c

/-- R127: the word's registers lie in the acting group's file. -/
def State.fileOk (s : State) (f : LaneFields) : Bool := inFile f s.t.type.regs

/-- What a word computes in one lane: the bits and tag of its destination, and whether the lane traps. -/
structure LaneOut where
  /-- Bits. -/
  bits : Nat
  /-- Tag. -/
  tag : Nat := 0
  /-- The precision as which a larger tag, copied from a source, is read (R263, R265). -/
  p : Nat := 63
  deriving DecidableEq, Repr

/-- R370: the registers after a word that writes `n` registers from dst in its executing lanes. -/
def Group.applyLanes (g : Group) (f : LaneFields) (n : Nat) (res : Nat → LaneOut) : Group :=
  (foldState (lanesOf (g.active f.guard)) g fun i h =>
    h.writeRegs f.dst i (res i).bits (BitVec.ofNat 6 (res i).tag) n).shiftLast f.dst n

/-- R265: the lanes whose result falls below the threshold. -/
def Group.sigLanes (g : Group) (f : LaneFields) (res : Nat → LaneOut) : Word32 :=
  let theta := (g.lfmt.extractLsb' 6 6).toNat
  if theta = 0 then 0
  else maskOf fun i => lane (g.active f.guard) i && !lane g.helpers i && decide (min (res i).tag (res i).p < theta)

/-- The lowest of the tags of some lanes. -/
def lowestTag (m : Word32) (res : Nat → LaneOut) : Nat :=
  (lanesOf m).foldl (fun t i => min t (res i).tag) 63

/-- R265: SIGTRAP in these lanes of a word at lane PC `pc`. -/
def sigTrap (g : Group) (m : Word32) (low : Nat) : Trap :=
  { cause := causeSigtrap, pc := BitVec.ofNat 64 g.lpc, lanes := m
    detail := BitVec.ofNat 32 (low + 64 * (g.lfmt.extractLsb' 6 6).toNat), info2 := 0, control := false, tx := false }

/-- The lane word completes with group `g`, and raises a trap where `t` is one. -/
def State.laneTrap (s : State) (g : Group) (t : Option Trap) : Res :=
  match t with
  | none => s.laneDone g
  | some t => .next (s.takeTrap { g with lpc := g.lpc + 1, lwait := none } t)

/-- R370, R373: a word that computes one destination of `n` registers in each executing lane; `checked` words meet
the significance trap. -/
def State.laneOp (s : State) (f : LaneFields) (n : Nat) (checked : Bool) (res : Nat → LaneOut) : Res :=
  if !s.fileOk f then s.illegal
  else
    let m := if checked then s.g.sigLanes f res else 0
    s.laneTrap (s.g.applyLanes f n res) (if m = 0 then none else some (sigTrap s.g m (lowestTag m res)))

/-- R253, R370: the rounding mode of a word marked rnd. -/
def Group.mode (g : Group) (f : LaneFields) : Nat :=
  if f.rnd = 7 then (g.lfmt.extractLsb' 0 3).toNat else f.rnd.toNat

end Sys2Proof.Machine
end

