-- ==== Sys2Proof/Machine/LaneInt.lean ====
section
/-! DEFINITION. Sys2Proof/Machine/LaneInt.lean: the per-lane integer, bitwise, bit-field, select and move words
(R374-R376). -/

namespace Sys2Proof.Machine

/-- R374: w. -/
def intWidth (f : LaneFields) : Nat := if f.ty = 1 then 64 else 32

/-- Registers of a value of width w. -/
def intRegs (f : LaneFields) : Nat := if f.ty = 1 then 2 else 1

/-- A source of width w in lane `i`. -/
def Group.intSrc (g : Group) (f : LaneFields) (x : Operand) (i : Nat) : Nat := g.readInt f x i (intRegs f)

/-- A source of width w as a signed integer. -/
def Group.intSigned (g : Group) (f : LaneFields) (x : Operand) (i : Nat) : Int :=
  (BitVec.ofNat (intWidth f) (g.intSrc f x i)).toInt

/-- R374: SatS. -/
def satS (w : Nat) (x : Int) : Int :=
  if x < -(2 ^ (w - 1) : Int) then -(2 ^ (w - 1) : Int) else if (2 ^ (w - 1) : Int) ≤ x then (2 ^ (w - 1) : Int) - 1 else x

/-- The low `w` bits of an integer. -/
def wrap (w : Nat) (x : Int) : Nat := (BitVec.ofInt w x).toNat

/-- A word that writes an untagged result of width w. -/
def State.intWord (s : State) (f : LaneFields) (res : Nat → Nat) : Res :=
  s.laneOp f (intRegs f) false fun i => { bits := res i }

/-- A word that writes an untagged 32-bit result. -/
def State.intWord32 (s : State) (f : LaneFields) (res : Nat → Nat) : Res :=
  s.laneOp f 1 false fun i => { bits := res i }

/-- A wrapping or saturating result of an exact integer. -/
def intResult (f : LaneFields) (x : Int) : Nat :=
  wrap (intWidth f) (if f.sat = 1 then satS (intWidth f) x else x)

/-- R374: IADD. -/
def execIadd (f : LaneFields) (s : State) : Res :=
  s.intWord f fun i => intResult f (s.g.intSigned f f.a i + s.g.intSigned f f.b i)

/-- R374: ISUB. -/
def execIsub (f : LaneFields) (s : State) : Res :=
  s.intWord f fun i => intResult f (s.g.intSigned f f.a i - s.g.intSigned f f.b i)

/-- R374: IMUL. -/
def execImul (f : LaneFields) (s : State) : Res :=
  s.intWord f fun i => (s.g.intSrc f f.a i * s.g.intSrc f f.b i) % 2 ^ intWidth f

/-- R374: IMULH. -/
def execImulh (f : LaneFields) (s : State) : Res :=
  s.intWord f fun i =>
    if f.sub = 1 then s.g.intSrc f f.a i * s.g.intSrc f f.b i / 2 ^ intWidth f
    else wrap (intWidth f) (s.g.intSigned f f.a i * s.g.intSigned f f.b i / (2 ^ intWidth f : Nat))

/-- R374: IMAD. -/
def execImad (f : LaneFields) (s : State) : Res :=
  s.intWord f fun i => intResult f (s.g.intSigned f f.a i * s.g.intSigned f f.b i + s.g.intSigned f f.c i)

/-- R374: `a` is less than `b`, as signed or, under sub = 1, as unsigned. -/
def Group.intLess (g : Group) (f : LaneFields) (i : Nat) : Bool :=
  if f.sub = 1 then g.intSrc f f.a i < g.intSrc f f.b i else g.intSigned f f.a i < g.intSigned f f.b i

/-- R374: IMIN. -/
def execImin (f : LaneFields) (s : State) : Res :=
  s.intWord f fun i => if s.g.intLess f i then s.g.intSrc f f.a i else s.g.intSrc f f.b i

/-- R374: IMAX. -/
def execImax (f : LaneFields) (s : State) : Res :=
  s.intWord f fun i => if s.g.intLess f i then s.g.intSrc f f.b i else s.g.intSrc f f.a i

/-- R374: IABS. -/
def execIabs (f : LaneFields) (s : State) : Res :=
  s.intWord f fun i => wrap (intWidth f) ((s.g.intSigned f f.a i).natAbs : Int)

/-- R374: AND. -/
def execLaneAnd (f : LaneFields) (s : State) : Res := s.intWord f fun i => s.g.intSrc f f.a i &&& s.g.intSrc f f.b i

/-- R374: OR. -/
def execLaneOr (f : LaneFields) (s : State) : Res := s.intWord f fun i => s.g.intSrc f f.a i ||| s.g.intSrc f f.b i

/-- R374: XOR. -/
def execLaneXor (f : LaneFields) (s : State) : Res := s.intWord f fun i => s.g.intSrc f f.a i ^^^ s.g.intSrc f f.b i

/-- R374: NOT. -/
def execLaneNot (f : LaneFields) (s : State) : Res := s.intWord f fun i => 2 ^ intWidth f - 1 - s.g.intSrc f f.a i

/-- R374: s of the shifts. -/
def Group.shiftBy (g : Group) (f : LaneFields) (i : Nat) : Nat := g.intSrc f f.b i % intWidth f

/-- R374: SHL. -/
def execLaneShl (f : LaneFields) (s : State) : Res :=
  s.intWord f fun i => (s.g.intSrc f f.a i <<< s.g.shiftBy f i) % 2 ^ intWidth f

/-- R374: SHR. -/
def execLaneShr (f : LaneFields) (s : State) : Res := s.intWord f fun i => s.g.intSrc f f.a i >>> s.g.shiftBy f i

/-- R374: SRA. -/
def execLaneSra (f : LaneFields) (s : State) : Res :=
  s.intWord f fun i => ((BitVec.ofNat (intWidth f) (s.g.intSrc f f.a i)).sshiftRight (s.g.shiftBy f i)).toNat

/-- R375: pos. -/
def fieldPos (f : LaneFields) : Nat := (f.imm.extractLsb' 0 6).toNat

/-- R375: width. -/
def fieldWidth (f : LaneFields) : Nat := (f.imm.extractLsb' 8 7).toNat

/-- R375: BFE. -/
def execBfe (f : LaneFields) (s : State) : Res :=
  s.intWord f fun i =>
    let x := s.g.intSrc f f.a i / 2 ^ fieldPos f % 2 ^ fieldWidth f
    if f.sub = 1 then wrap (intWidth f) (BitVec.ofNat (fieldWidth f) x).toInt else x

/-- R375: BFI. -/
def execBfi (f : LaneFields) (s : State) : Res :=
  s.intWord f fun i =>
    let a := s.g.intSrc f f.a i % 2 ^ fieldWidth f
    let b := s.g.intSrc f f.b i
    let mask := (2 ^ fieldWidth f - 1) <<< fieldPos f
    (b - (b &&& mask)) + a <<< fieldPos f

/-- R374: leading zeros of a `w`-bit value. -/
def clzNat (w x : Nat) : Nat := if x = 0 then w else w - 1 - Nat.log2 x

/-- R374: CLZ. -/
def execLaneClz (f : LaneFields) (s : State) : Res := s.intWord32 f fun i => clzNat (intWidth f) (s.g.intSrc f f.a i)

/-- Bits set among the low `w`. -/
def popNat (w x : Nat) : Nat := (List.range w).foldl (fun n k => n + x / 2 ^ k % 2) 0

/-- R374: POPC. -/
def execLanePopc (f : LaneFields) (s : State) : Res := s.intWord32 f fun i => popNat (intWidth f) (s.g.intSrc f f.a i)

/-- R374: bit k to bit w - 1 - k. -/
def reverseBits (w x : Nat) : Nat := (List.range w).foldl (fun n k => n + x / 2 ^ k % 2 * 2 ^ (w - 1 - k)) 0

/-- R374: BREV. -/
def execBrev (f : LaneFields) (s : State) : Res := s.intWord f fun i => reverseBits (intWidth f) (s.g.intSrc f f.a i)

/-- R374: ISET. -/
def execIset (f : LaneFields) (s : State) : Res :=
  s.intWord32 f fun i =>
    b2n (intCond (f.sub.setWidth 3) (BitVec.ofNat (intWidth f) (s.g.intSrc f f.a i))
      (BitVec.ofNat (intWidth f) (s.g.intSrc f f.b i)))

/-- R374: SEL. -/
def execLaneSel (f : LaneFields) (s : State) : Res :=
  s.laneOp f (intRegs f) false fun i =>
    let x := if s.g.readInt f f.c i 1 ≠ 0 then f.a else f.b
    { bits := s.g.intSrc f x i, tag := (s.g.moveTag x i).toNat }

/-- R374: MOV. -/
def execMov (f : LaneFields) (s : State) : Res :=
  let n := if f.ty = 2 then 4 else intRegs f
  s.laneOp f n false fun i => { bits := s.g.readInt f f.a i n, tag := (s.g.moveTag f.a i).toNat }

/-- R376: MOVI. -/
def execMovi (f : LaneFields) (s : State) : Res :=
  if f.sub = 0 then s.laneOp f 1 false fun _ => { bits := f.imm.toNat, tag := 24 }
  else s.laneOp f 2 false fun i => { bits := (s.g.reg f.dst 0 i).bits.toNat + f.imm.toNat * 2 ^ 32, tag := 53 }

end Sys2Proof.Machine
end

