-- ==== Sys2Proof/Machine/LaneMemory.lean ====
section
/-! DEFINITION. Sys2Proof/Machine/LaneMemory.lean: the lane memory words (R171-R177, R403-R410), with the view of a lane
in a transaction (R232-R234).  A word checks every executing lane's addresses first (R166) and then performs its lanes
in ascending order; the values of a load are fixed at issue and land when it completes (R139). -/

namespace Sys2Proof.Machine

/-! ## Addresses -/

/-- R403: n. -/
def memBytes (f : LaneFields) : Nat := 2 ^ (f.sub.extractLsb' 0 3).toNat

/-- R403: registers of a value of n bytes. -/
def memRegs (f : LaneFields) : Nat := if memBytes f = 16 then 4 else if memBytes f = 8 then 2 else 1

/-- R403: A plus SignExt(imm32). -/
def Group.memAddr (g : Group) (f : LaneFields) (i : Nat) : Word :=
  BitVec.ofNat 64 (g.readInt f f.a i 2) + f.imm.signExtend 64

/-- R406: the tag address, B. -/
def Group.tagAddr (g : Group) (f : LaneFields) (i : Nat) : Word := BitVec.ofNat 64 (g.readInt f f.b i 2)

/-- One access of a lane: its address and its bytes. -/
abbrev LaneAccess := Word × Nat

/-- The access of a word with one address. -/
def Group.oneAccess (g : Group) (f : LaneFields) (i : Nat) : List LaneAccess := [(g.memAddr f i, memBytes f)]

/-- The accesses of LDT and STT: the value, then the tag byte (R177). -/
def Group.twoAccesses (g : Group) (f : LaneFields) (i : Nat) : List LaneAccess :=
  [(g.memAddr f i, memBytes f), (g.tagAddr f i, 1)]

/-- R403: source bits of a value of n bytes. -/
def Group.memSrc (g : Group) (f : LaneFields) (x : Operand) (i : Nat) : Nat :=
  g.readInt f x i (memRegs f) % 2 ^ (8 * memBytes f)

/-- R232: the lane's accesses to device memory are transactional. -/
def Group.inTx (g : Group) (i : Nat) : Bool := lane g.tx.active i && !g.tx.serial

/-- LD and LDT. -/
def loadKind : MemKind := { loads := true, write := false, reads := true }

/-- ST and STT. -/
def storeKind : MemKind := { loads := false, write := true, reads := false }

/-- ATOM and CAS: `ret` returns a value, and `nc` is an operation that the non-coherent window does not offer. -/
def atomicKind (ret nc : Bool) : MemKind := { loads := ret, write := true, reads := true, nc }

/-- R158: what the accesses of a word need of their pages. -/
def MemKind.need (k : MemKind) : Need := if k.write then .write else .read

/-! ## The checks of all lanes (R165, R166, R234, R238) -/

/-- The checks of one lane's accesses: the targets and the walker's marks, the first failure, or a wait. -/
def State.checkLane (s : State) (k : MemKind) :
    List LaneAccess → Except (Option (BitVec 8 × Word)) (List (Word × Target) × State)
  | [] => .ok ([], s)
  | (a, n) :: rest =>
    match s.check s.g.team a n k.need k.nc with
    | .fault c => .error (some (c, a))
    | .busy => .error none
    | .ok t marks skip starve =>
      match (s.applyMarks marks skip starve).checkLane k rest with
      | .error e => .error e
      | .ok (ts, s) => .ok ((a, t) :: ts, s)

/-- Add one lane to the plan. -/
def State.planLane (s : State) (acc : Nat → List LaneAccess) (i : Nat) (p : LanePlan) : LanePlan × State :=
  let fail := fun (c : BitVec 8) (a : Word) =>
    if lane p.helpers i then { p with zero := p.zero ++ [(i, (acc i).map fun x => s.inWindow x.1)] }
    else if lane p.tx i then { p with aborts := p.aborts ++ [(i, c.toNat)] }
    else { p with fails := p.fails ++ [(i, c, a)] }
  match s.checkLane p.kind (acc i) with
  | .error none => ({ p with busy := true }, s)
  | .error (some (c, a)) => (fail c a, s.touchFail s.g.part c a.toNat)
  | .ok (ts, s) =>
    if lane p.tx i && ts.any (·.2.isSystem) then ({ p with aborts := p.aborts ++ [(i, 0xFFFF)] }, s)
    else ({ p with ok := p.ok ++ [(i, ts)] }, s)

/-- The plan of a word as its checks begin: which lanes are in a transaction, and which are helpers. -/
def Group.emptyPlan (g : Group) (k : MemKind) : LanePlan := { kind := k, tx := if g.tx.serial then 0 else g.tx.active, helpers := g.helpers }

/-- The plan of the lanes of a mask. -/
def State.planLanes (s : State) (x : Word32) (k : MemKind) (acc : Nat → List LaneAccess) : LanePlan × State :=
  foldState (lanesOf x) (s.g.emptyPlan k, s) fun i ps => ps.2.planLane acc i ps.1

/-- R163: the lanes of a word ask for the translations of their pages. -/
def State.askPages (s : State) (x : Word32) (acc : Nat → List LaneAccess) : State :=
  ((lanesOf x).flatMap acc).foldl (fun s a => s.askPage s.g.team a.1 a.2) s

/-- R137: the counters that a load joins whose accesses are, or are not, to windows. -/
def Group.loadLists (g : Group) (windows : List Bool) : List (List Flight) :=
  (if windows.any (!·) then [g.gl] else []) ++ (if windows.any id then [g.sp] else [])

/-- R137, R61: why a memory word is held before its checks. -/
def State.laneHold (s : State) (x : Word32) (loads : Bool) (acc : Nat → List LaneAccess) : Option Wait :=
  let g := s.g
  let adds := (lanesOf x).flatMap fun i => (acc i).map fun a => (g.inTx i, s.inWindow a.1)
  if adds.isEmpty then none
  else if loads then g.memHold (g.loadLists (adds.map (·.2)))
  else g.memHold (if adds.any (fun a => !a.1 || a.2) then [g.st] else [])

/-- R235: the aborts of the plan. -/
def LanePlan.abort (p : LanePlan) (g : Group) : Group :=
  foldState p.aborts g fun x g => g.abortLanes (laneBit x.1) 4 x.2

/-- R166: the plan's fault: the lowest failing lane's cause and address, with every lane that failed alike. -/
def LanePlan.fault (p : LanePlan) : Option (BitVec 8 × Word32 × Word × Nat) :=
  p.fails.head?.map fun x =>
    (x.2.1, (p.fails.filter fun y => y.2.1 == x.2.1).foldl (fun m y => m ||| laneBit y.1) 0, x.2.2, x.1)

/-- An access outside the windows and the system range. -/
def Target.isDevice : Target → Bool
  | .dev _ => true
  | _ => false

/-- One access of a plan. -/
def LanePlan.item (p : LanePlan) (i : Nat) (x : (Word × Target) × Nat) : LaneItem :=
  { lane := i, idx := x.2, addr := x.1.1, target := x.1.2
    tx := lane p.tx i && x.1.2.isDevice, helper := lane p.helpers i }

/-- The accesses of a plan, in the order of their points. -/
def LanePlan.items (p : LanePlan) : List LaneItem := p.ok.flatMap fun y => y.2.zipIdx.map (p.item y.1)

/-- R137, R232: targets of the plan that are not transactional. -/
def LanePlan.plainTargets (p : LanePlan) : List Target := (p.items.filter (!·.tx)).map (·.target)

/-- R137: which accesses of the plan are to windows, those of helper lanes that fail among them. -/
def LanePlan.windows (p : LanePlan) : List Bool := p.items.map (·.target.isWindow) ++ p.zero.flatMap (·.2)

/-- R137: why a word that goes on is held: a counter that it is to join is full. -/
def LanePlan.hold (p : LanePlan) (g : Group) : Option Wait :=
  Group.countHold (if p.kind.loads then g.loadLists p.windows else if p.plainTargets.isEmpty then [] else [g.st])

/-- Bytes of one access. -/
def itemBytes (f : LaneFields) (y : LaneItem) : Nat := if y.idx = 0 then memBytes f else 1

/-! ## Logs (R229, R232, R233) -/

/-- Granules of an access. -/
def granules (pa n : Nat) : List Nat := if n = 16 then [pa, pa + 8] else [pa / 8 * 8]

/-- The entry of a granule in a log. -/
def logFind (log : List LogEntry) (gr : Nat) : Option LogEntry := log.find? (·.granule == gr)

/-- R233: the log has room for an access. -/
def logRoom (log : List LogEntry) (pa n limit : Nat) : Bool :=
  let new := (granules pa n).filter fun gr => (logFind log gr).isNone
  new.isEmpty || log.length + new.length ≤ limit

/-- A lane's read log. -/
def Group.readLog (g : Group) (i : Nat) : List LogEntry := g.tx.reads.get [] i

/-- A lane's write log. -/
def Group.writeLog (g : Group) (i : Nat) : List LogEntry := g.tx.writes.get [] i

/-! ## Waits and the resumption of a word -/

/-- R232: an access takes its value from the lane's read log, or only enters the write log, and reaches no memory. -/
def State.staysInLog (s : State) (k : MemKind) (y : LaneItem) (n : Nat) : Bool :=
  y.tx && (!k.reads || (granules y.target.loc n).all fun gr => (logFind (s.g.readLog y.lane) gr).isSome)

/-- R185, R186, R202: an access waits: a write on another team's version or on a lock, and a read on a lock where the part
serves it after the commit.  A transactional access only reads memory (R232). -/
def State.itemWaits (s : State) (f : LaneFields) (k : MemKind) (y : LaneItem) : Bool :=
  !s.staysInLog k y (itemBytes f y) &&
    ((k.write && !y.tx && s.lineHeld y.target) || s.lockWait y.target.loc (itemBytes f y) (k.write && !y.tx))

/-- Some access waits. -/
def State.lanesWait (s : State) (f : LaneFields) (k : MemKind) (items : List LaneItem) : Bool := items.any (s.itemWaits f k)

/-- The acting group's lane memory word that is under way. -/
def State.midLanes (s : State) : Option (LanePlan × List LaneItem × LaneRun) :=
  match s.midOf false with
  | some { body := .lanes p items run, .. } => some (p, items, run)
  | _ => none

/-- Where a word that goes on stands. -/
structure Resumed where
  /-- The accesses that are left, with the targets of this moment. -/
  items : List LaneItem := []
  /-- Lanes whose transaction aborts, with DETAIL. -/
  aborts : List (Nat × Nat) := []
  /-- Some access waits for its page. -/
  busy : Bool := false

/-- R161: one access of a word that goes on is translated again. -/
def State.resumeItem (f : LaneFields) (k : MemKind) (tx : Word32) (y : LaneItem) (r : Resumed × State) : Resumed × State :=
  let (r, s) := r
  match s.check s.g.team y.addr (itemBytes f y) k.need k.nc with
  | .busy => ({ r with busy := true }, s)
  | .fault c => (if lane tx y.lane then { r with aborts := r.aborts ++ [(y.lane, c.toNat)] }
                 else { r with items := r.items ++ [y] }, s.touchFail s.g.part c y.addr.toNat)
  | .ok t marks skip starve =>
    if lane tx y.lane && t.isSystem then ({ r with aborts := r.aborts ++ [(y.lane, 0xFFFF)] }, s)
    else
      let y := { y with target := t, tx := lane tx y.lane && t.isDevice }
      ({ r with items := r.items ++ [y] }, (s.applyMarks marks skip starve).holdLine s.g.part t k.write)

/-- R161: every access that is left of a word is translated again at its own point. -/
def State.resumeItems (s : State) (f : LaneFields) (p : LanePlan) (items : List LaneItem) : Resumed × State :=
  foldState items (({} : Resumed), s) (State.resumeItem f p.kind p.tx)

/-- A plan whose accesses stand at new targets. -/
def LanePlan.retarget (p : LanePlan) (items : List LaneItem) : LanePlan :=
  { p with ok := p.ok.map fun y => (y.1, y.2.zipIdx.map fun x =>
      match items.find? fun z => z.lane == y.1 && z.idx == x.2 with
      | some z => (z.addr, z.target)
      | none => x.1) }

/-- R161, R171, R181: a word that is under way goes on. -/
def State.resumeWord (s : State) (f : LaneFields) (p : LanePlan) (items : List LaneItem) (run : LaneRun)
    (r : LanePlan → List LaneItem → LaneRun → State → Res) : Res :=
  let (x, s') := s.resumeItems f p items
  if x.busy then s.laneWait .translate
  else if s.lanesWait f p.kind x.items then s.laneWait .txCommit
  else
    let lost := x.aborts.foldl (fun m y => m ||| laneBit y.1) 0
    let s' := s'.setG ({ p with aborts := x.aborts }.abort s'.g)
    r (p.retarget x.items) (x.items.filter fun y => !lane lost y.lane) { run with lost := run.lost ||| lost } (s'.clearMid false)

/-- R62: what the failing lanes of a word touch stays touched where the word faults; `t` is the state after its checks. -/
def State.samePoison (s t : State) : State := { s with pkg := { s.pkg with poison := t.pkg.poison } }

/-- The accesses of a memory word, once its checks pass: `r` gets the plan, the accesses to perform with what those before
them gave, and the state with the walker's marks and the aborted lanes. -/
def State.laneMem (s : State) (f : LaneFields) (x : Word32) (k : MemKind) (acc : Nat → List LaneAccess)
    (r : LanePlan → List LaneItem → LaneRun → State → Res) : Res :=
  match s.midLanes with
  | some (p, items, run) =>
    match p.hold s.g with
    | some w => s.laneWait w
    | none => s.resumeWord f p items run r
  | none =>
    if !s.fileOk f then s.illegal
    else
      match s.laneHold x k.loads acc with
      | some w => s.laneWait w
      | none =>
        let s := s.askPages x acc
        let (p, s') := s.planLanes x k acc
        if p.busy && p.fails.isEmpty then s.laneWait .translate
        else
          match p.fault with
          | some (c, m, a, i) => .next (((s.samePoison s').setG (p.abort s.g)).raiseFault c m a (BitVec.ofNat 64 i))
          | none =>
            let targets := p.ok.flatMap fun y => y.2.map (·.2)
            if k.write && targets.any s.regionForbids then s.fault causeRegionEffect 0 0
            else if s.lanesWait f k p.items then s.laneWait .txCommit
            else
              let s' := foldState targets s' fun t s => s.holdLine s.g.part t k.write
              r p p.items {} (s'.setG (p.abort s'.g))

/-- R181: some accesses of a word have been performed, and others may come between them and the rest. -/
def State.midway (s : State) (p : LanePlan) (rest : List LaneItem) (run : LaneRun) : Res :=
  (s.setMid false (.lanes p rest run)).laneWait .portBusy

/-- The accesses that this turn performs, and the rest. -/
def State.takeItems (s : State) (items : List LaneItem) : List LaneItem × List LaneItem :=
  match s.limit with
  | none => (items, [])
  | some n => (items.take n, items.drop n)

/-! ## The view of a lane in a transaction (R232, R233) -/

/-- The granules of an access that the read log lacks are fetched and logged. -/
def State.txFetch (s : State) (i pa n : Nat) : State :=
  let g := s.g
  let log := (granules pa n).foldl (fun log gr =>
    if (logFind log gr).isSome then log else log ++ [{ granule := gr, bytes := s.bytesAt gr 8, mask := 0 }]) (g.readLog i)
  s.setG { g with tx := { g.tx with reads := g.tx.reads.put i log } }

/-- One byte of the view. -/
def Group.viewByte (g : Group) (i pa : Nat) : Byte :=
  let old := match logFind (g.readLog i) (pa / 8 * 8) with
    | some e => e.bytes.getD (pa % 8) 0
    | none => 0
  match logFind (g.writeLog i) (pa / 8 * 8) with
  | some e => if e.mask.getLsbD (pa % 8) then e.bytes.getD (pa % 8) 0 else old
  | none => old

/-- The bytes of the view. -/
def Group.txBytes (g : Group) (i pa n : Nat) : List Byte := (List.range n).map fun k => g.viewByte i (pa + k)

/-- R232: merge one byte into a write log. -/
def logMerge (pa : Nat) (b : Byte) : List LogEntry → List LogEntry
  | [] => [{ granule := pa / 8 * 8, bytes := (List.replicate 8 0).set (pa % 8) b, mask := 1#8 <<< (pa % 8) }]
  | e :: log =>
    if e.granule = pa / 8 * 8 then
      { e with bytes := e.bytes.set (pa % 8) b, mask := e.mask ||| (1#8 <<< (pa % 8)) } :: log
    else e :: logMerge pa b log

/-- R232: a transactional write. -/
def State.txWrite (s : State) (i pa : Nat) (bs : List Byte) : State :=
  let g := s.g
  let log := (bs.zipIdx).foldl (fun log b => logMerge (pa + b.2) b.1 log) (g.writeLog i)
  s.setG { g with tx := { g.tx with writes := g.tx.writes.put i log } }

/-- R233: a lane whose log is full aborts. -/
def State.logFull (s : State) (i : Nat) (write : Bool) : State := s.setG (s.g.abortLanes (laneBit i) (if write then 3 else 2) 0)

/-- R233: the word has aborted the transaction of lane `i`. -/
def LaneRun.lose (r : LaneRun) (i : Nat) : LaneRun := { r with lost := r.lost ||| laneBit i }

/-- A read of one access: through the view where it is transactional. -/
def State.laneRead (s : State) (y : LaneItem) (n : Nat) : List Byte × State :=
  if y.tx then
    let s := s.txFetch y.lane y.target.loc n
    (s.g.txBytes y.lane y.target.loc n, s)
  else (s.groupRead y.target.loc n, s)

/-- A write of one access, of a store whose flight has the number `seq`. -/
def State.laneWrite (s : State) (y : LaneItem) (seq : Nat) (bs : List Byte) : State :=
  if y.tx then s.txWrite y.lane y.target.loc bs else s.groupStore y.target seq bs

/-- R161: an access of a word is translated again where device memory has been written before it in the same step.  A
translation that would now wait, fail or be forbidden, or that leads from device to host memory or back, stays as the word's
checks found it (log 53). -/
def State.refresh (s : State) (f : LaneFields) (k : MemKind) (y : LaneItem) : LaneItem × State :=
  if y.tx || !(s.stores.any fun c => decide (c.1 < hostBase)) then (y, s)
  else
    match s.check s.g.team y.addr (itemBytes f y) k.need k.nc with
    | .ok t marks skip starve =>
      let z := { y with target := t }
      if t.isSystem == y.target.isSystem && !s.itemWaits f k z then (z, s.applyMarks marks skip starve) else (y, s)
    | _ => (y, s)

/-- Note an access of a lane for the watchpoints; helper lanes never match (R285). -/
def State.noteLane (s : State) (y : LaneItem) (n : Nat) (rd wr : Bool) : State :=
  if y.helper then s else s.noteAccess y.lane y.addr y.target.loc n rd wr

/-! ## Completion -/

/-- What a load delivers to `n` registers of a lane. -/
def landRegs (x : Operand) (i bits : Nat) (tag : Tag) : Nat → List Landing
  | 0 => []
  | n + 1 =>
    let v : LaneVal := ⟨BitVec.ofNat 32 (bits / 2 ^ (32 * n)), if n = 0 then tag else 0⟩
    landRegs x i bits tag n ++ (match x with
      | .v k => [.v ((k.toNat + n) * 32 + i) v]
      | .o k => [.o ((k.toNat + n) * 32 + i) v]
      | _ => [])


/-- R137: a load joins each counter whose kind its lanes touch.  Where it joins both, GL holds its values, and whichever
entry completes first delivers them (`landEntry`). -/
def Group.addLoad (g : Group) (windows : List Bool) (fl : Flight) : Group :=
  let near := windows.any id
  if near && windows.any (!·) then
    let g := g.addFlight false false fl
    { g with sp := g.sp ++ [{ seq := g.seq - 1, region := fl.region }] }
  else g.addFlight near false fl

/-! ## LD, LDT -/

/-- R233: the lane's log has no room for an access. -/
def LaneItem.noLog (y : LaneItem) (log : List LogEntry) (n limit : Nat) : Bool :=
  y.tx && !logRoom log y.target.loc n limit

/-- One access of a load. -/
def State.loadAccess (s : State) (f : LaneFields) (run : LaneRun) (y : LaneItem) : LaneRun × State :=
  let n := itemBytes f y
  if lane run.lost y.lane then (run, s)
  else if y.noLog (s.g.readLog y.lane) n 32 then (run.lose y.lane, s.logFull y.lane false)
  else
    let (bs, s) := (if y.idx = 0 then s else s.syncRead y.target).laneRead y n
    ({ run with got := run.got ++ [(y.lane, y.idx, leNat bs)] }, s.noteLane y n true false)

/-- The value that an access of a lane gave. -/
def LaneRun.value (r : LaneRun) (i idx : Nat) : Option Nat :=
  (r.got.find? fun x => x.1 == i && x.2.1 == idx).map (·.2.2)

/-- R404: the bits that a load of n bytes gives a register. -/
def loadBits (f : LaneFields) (v : Nat) : Nat :=
  if f.sub.getLsbD 3 then (signExt (8 * memBytes f) v).toNat % 2 ^ 32 else v

/-- R176: a tag byte with [7:6] other than 0. -/
def badTag (t : Nat) : Bool := 64 ≤ t

/-- R404, R406: what a load delivers to one lane: the value, with the tag of LDT, 0 for a bad tag byte. -/
def loadLanding (f : LaneFields) (i v : Nat) : Option Nat → List Landing
  | none => landRegs f.dst i (loadBits f v) 63 (memRegs f)
  | some t => landRegs f.dst i v (if badTag t then 0 else BitVec.ofNat 6 t) (memRegs f)

/-- R404, R406: the landings of one lane. -/
def LaneRun.landing (r : LaneRun) (f : LaneFields) (i : Nat) : List Landing :=
  match r.value i 0 with
  | some v => loadLanding f i v (r.value i 1)
  | none => []

/-- R60, R172, R188: what the value `v` of `n` bytes, read late, delivers. -/
def LateDest.landing (d : LateDest) (n v : Nat) : List Landing :=
  match d with
  | .none => []
  | .k r sx => [.k r (ldkValue sx n (leBytes n v))]
  | .kPair r => [.k r (BitVec.ofNat 64 v), .k (r + 1) (BitVec.ofNat 64 (v / 2 ^ 64))]
  | .lane f i tag => loadLanding f i v tag
  | .lanes f pre => pre.flatMap fun x => landRegs f.dst x.1 ((v + x.2) % 2 ^ (8 * n)) 0 (memRegs f)

/-- R188: the accesses of a load whose values are read when their requests reach the host.  A tag byte is read at issue,
since LDT traps over it before it completes (log 92). -/
def LaneRun.lateReads (r : LaneRun) (f : LaneFields) (done : List LaneItem) : List LateAccess :=
  (done.filter fun y => y.target.isNonCoherent && y.idx == 0).map fun y =>
    y.target.lateAccess y.lane y.addr (memBytes f) .read (.lane f y.lane (r.value y.lane 1))

/-- The load of a word whose accesses have all been performed completes: it is in flight, or traps over a tag byte. -/
def State.loadEnd (s : State) (f : LaneFields) (p : LanePlan) (run : LaneRun) : Res :=
  let done := p.items.filter fun y => !lane run.lost y.lane
  let lanes := (done.map (·.lane)).eraseDups
  let far := (done.filter fun y => y.target.isNonCoherent && y.idx == 0).map (·.lane)
  let land := (p.zero.flatMap fun x => landRegs f.dst x.1 0 0 (memRegs f)) ++
    (lanes.filter fun i => !far.contains i).flatMap (run.landing f)
  let fl : Flight := { land, late := run.lateReads f done }
  let bad := lanes.filter fun i => (run.value i 1).any badTag && !lane p.helpers i
  let windows := done.map (·.target.isWindow) ++ p.zero.flatMap (·.2)
  s.laneTrap (if windows.isEmpty then s.g else s.g.addLoad windows fl) <| bad.head?.map fun low =>
    { cause := causeTagForm, pc := BitVec.ofNat 64 s.g.lpc
      lanes := bad.foldl (fun m i => m ||| laneBit i) 0, detail := BitVec.ofNat 32 low
      info2 := s.g.tagAddr f low, control := false, tx := false }

/-- LD and LDT, with the accesses that each lane makes. -/
def State.loadWord (s : State) (f : LaneFields) (acc : Nat → List LaneAccess) : Res :=
  s.laneMem f (s.g.active f.guard) loadKind acc fun p items run s =>
    let (now, rest) := s.takeItems items
    let (run, s) := now.foldl (fun x y => x.2.loadAccess f x.1 y) (run, s)
    if rest.isEmpty then s.loadEnd f p run else s.midway p rest run

/-- R404: LD. -/
def execLd (f : LaneFields) (s : State) : Res := s.loadWord f (s.g.oneAccess f)

/-- R406: LDT. -/
def execLdt (f : LaneFields) (s : State) : Res := s.loadWord f (s.g.twoAccesses f)

/-! ## ST, STT -/

/-- The accesses of a store, in order; nothing where a region lacks room for a line (R204). -/
def State.storeItems (f : LaneFields) (bytes : Nat → List (List Byte)) : State → LaneRun → List LaneItem → Option (LaneRun × State)
  | s, run, [] => some (run, s)
  | s, run, y :: rest =>
    let bs := (bytes y.lane).getD y.idx []
    if lane run.lost y.lane then State.storeItems f bytes s run rest
    else if y.noLog (s.g.writeLog y.lane) bs.length 16 then
      State.storeItems f bytes (s.logFull y.lane true) (run.lose y.lane) rest
    else
      let (y, s) := s.refresh f storeKind y
      if !y.tx && s.noRoom y.target.loc then none
      else State.storeItems f bytes ((s.noteLane y bs.length false true).laneWrite y (run.seq.getD s.g.seq) bs) run rest

/-- R59: a store that is divided takes the number of its flight at its first point. -/
def State.reserveSeq (s : State) (run : LaneRun) : LaneRun × State :=
  match run.seq with
  | some _ => (run, s)
  | none => ({ run with seq := some s.g.seq }, s.setG { s.g with seq := s.g.seq + 1 })

/-- ST and STT: the bytes that each lane writes at each of its addresses. -/
def State.storeWord (s0 : State) (f : LaneFields) (acc : Nat → List LaneAccess) (bytes : Nat → List (List Byte)) : Res :=
  s0.laneMem f (s0.g.active f.guard &&& ~~~s0.g.helpers) storeKind acc fun p items run s =>
    let (now, rest) := s.takeItems items
    match State.storeItems f bytes s run now with
    | none => (s0.clearMid false).starve.laneWait .regionCommit
    | some (run, s') =>
      if !rest.isEmpty then
        let (run, s') := s'.reserveSeq run
        s'.midway p rest run
      else
        let ts := p.plainTargets
        s'.laneDone (if ts.isEmpty then s'.g
          else s'.g.addStoreAs run.seq { nonCoherent := ts.any (·.isNonCoherent), region := s.writeRegion })

/-- R405: ST. -/
def execSt (f : LaneFields) (s : State) : Res :=
  s.storeWord f (s.g.oneAccess f) fun i => [leBytes (memBytes f) (s.g.memSrc f f.b i)]

/-- R406: STT. -/
def execStt (f : LaneFields) (s : State) : Res :=
  s.storeWord f (s.g.twoAccesses f) fun i =>
    [leBytes (memBytes f) (s.g.memSrc f f.c i), [(s.g.moveTag f.c i).setWidth 8]]

/-! ## ATOM, CAS -/

/-- What the meaning of an atomic word fixes. -/
structure AtomSpec where
  /-- R305. -/
  op : Nat
  /-- Bytes. -/
  n : Nat
  /-- CAS. -/
  cas : Bool
  /-- It returns its old values. -/
  ret : Bool
  /-- Operand of a lane: what CAS compares with. -/
  val : Nat → Nat
  /-- What CAS writes. -/
  rep : Nat → Nat

/-- R407, R408: the new value of lane `i`, if it writes. -/
def AtomSpec.new (a : AtomSpec) (i old : Nat) : Option Nat :=
  if a.cas then (if old = a.val i then some (a.rep i) else none) else some (atomicOp a.op a.n old (a.val i))

/-- One atomic at a plain target: the old value, and the state with the new one, if any; nothing where a region lacks
room. -/
def State.atomicAt (s : State) (t : Target) (n : Nat) (f : Nat → Option Nat) : Option (Nat × State) :=
  let s := s.syncFor t
  let old := leNat (s.groupRead t.loc n)
  match f old with
  | some v => if s.noRoom t.loc then none else some (old, s.groupWrite t.loc (leBytes n v))
  | none => some (old, s.wakeWatchers t.loc)

/-- R172: P[1], …, P[n], the running sums of the combined lanes. -/
def prefixSums (op n : Nat) : Nat → List Nat → List Nat
  | p, [] => [p]
  | p, x :: xs => p :: prefixSums op n (atomicOp op n p x) xs

/-- R172, R173: the lanes of one add combine: each lane's value and the target they share; their old values. -/
def State.combined (s : State) (op n : Nat) (t : Target) (xs : List (Nat × Nat)) : Option (List (Nat × Nat) × State) :=
  match xs with
  | [] => some ([], s)
  | (j0, x0) :: rest =>
    let sums := prefixSums op n x0 (rest.map (·.2))
    (s.atomicAt t n fun old => some (atomicOp op n old (sums.getLastD x0))).map fun (old, s) =>
      ((j0, old) :: (rest.zip sums).map (fun (x, p) => (x.1, atomicOp op n old p)), s)

/-- R60, R172: one AtomicOp of a word for these lanes: what it does, and what it returns to each. -/
def AtomSpec.hostOp (a : AtomSpec) (f : LaneFields) (t : Target) (addr : Word) (i : Nat) (rest : List Nat) : LateAccess :=
  let sums := prefixSums 0 a.n (a.val i) (rest.map a.val)
  let op : LateOp := if a.cas then .cas (a.val i) (a.rep i)
    else if a.op = 1 then .swap (a.val i) else .add (sums.getLastD (a.val i))
  t.lateAccess i addr a.n op (if a.ret then .lanes f ((i, 0) :: rest.zip sums) else .none)

/-- R232: a transactional read and conditional write on the view of an access. -/
def State.txAtomic (s : State) (a : AtomSpec) (y : LaneItem) : Option Nat × State :=
  let i := y.lane
  let pa := y.target.loc
  if !logRoom (s.g.readLog i) pa a.n 32 then (none, s.logFull i false)
  else if !a.cas && !logRoom (s.g.writeLog i) pa a.n 16 then (none, s.logFull i true)
  else
    let s' := s.txFetch i pa a.n
    let old := leNat (s'.g.txBytes i pa a.n)
    match a.new i old with
    | none => (some old, s')
    | some v =>
      if logRoom (s.g.writeLog i) pa a.n 16 then (some old, s'.txWrite i pa (leBytes a.n v)) else (none, s.logFull i true)

/-- R172: the lane, of those that combine with an access, whose AtomicOp is theirs. -/
def AtomSpec.lead (a : AtomSpec) (items : List LaneItem) (y : LaneItem) : Nat :=
  if a.cas || a.op != 0 then y.lane else ((items.find? fun z => !z.tx && z.addr == y.addr).map (·.lane)).getD y.lane

/-- R60: the accesses of a word whose AtomicOps the host refuses; a CAS after a refused one is not sent. -/
def State.refused (s : State) (a : AtomSpec) (items : List LaneItem) : List LaneItem :=
  let xs := items.filter fun y => !y.tx && y.target.isNonCoherent && Config.atomicRefused s.free (a.lead items y)
  if a.cas then xs.take 1 else xs

/-- R232: the atomic of one lane on its transaction's view. -/
def State.txItem (s : State) (a : AtomSpec) (run : LaneRun) (y : LaneItem) : LaneRun × State :=
  match s.txAtomic a y with
  | (some v, s) => ({ run with got := run.got ++ [(y.lane, 0, v)] }, s.noteLane y a.n true true)
  | (none, s) => (run.lose y.lane, s)

/-- R60, R171-R173: the next atomic of a word outside transactions, with the lanes that combine with it; nothing where
a region lacks room.  The host performs one on the non-coherent window later (R188). -/
def State.plainItem (s : State) (f : LaneFields) (a : AtomSpec) (run : LaneRun) (y : LaneItem) (same : List LaneItem) :
    Option (LaneRun × State) :=
  let note := fun s : State => foldState (y :: same) s fun z s => s.noteLane z a.n true true
  if y.target.isNonCoherent then
    some ({ run with
      got := run.got ++ (y :: same).map fun z => (z.lane, 0, 0)
      late := run.late ++ [a.hostOp f y.target y.addr y.lane (same.map (·.lane))] }, note s)
  else
    let done := if a.cas then (s.atomicAt y.target a.n (a.new y.lane)).map fun (old, s) => ([(y.lane, old)], s)
      else s.combined a.op a.n y.target ((y :: same).map fun z => (z.lane, a.val z.lane))
    done.map fun (out, s) => ({ run with got := run.got ++ out.map fun x => (x.1, 0, x.2) }, note s)

/-- The accesses of an atomic, the lowest lane first; the first argument bounds the points, and what is left of them is
the third part of the answer. -/
def State.atomicItems (f : LaneFields) (a : AtomSpec) :
    Nat → State → LaneRun → List LaneItem → Option (LaneRun × State × List LaneItem)
  | 0, s, run, items => some (run, s, items)
  | _, s, run, [] => some (run, s, [])
  | fuel + 1, s, run, y :: rest =>
    if lane run.lost y.lane then State.atomicItems f a fuel s run rest
    else if y.tx then
      let (run, s) := s.txItem a run y
      State.atomicItems f a fuel s run rest
    else
      let joins := fun (z : LaneItem) => !a.cas && (a.op == 0 || a.op == 9) && z.addr == y.addr && !z.tx
      let (y, s) := s.refresh f (atomicKind a.ret (!a.cas && ncRefuses a.op)) y
      match s.plainItem f a run y (rest.filter joins) with
      | none => none
      | some (run, s) => State.atomicItems f a fuel s run (rest.filter fun z => !joins z)

/-- An atomic word whose accesses have all been performed: it is in flight. -/
def State.atomicEnd (s : State) (f : LaneFields) (p : LanePlan) (run : LaneRun) (ret : Bool) (tag : Tag)
    (region : Option Nat) : Res :=
  let plain := p.plainTargets
  let done := p.items.filter fun y => run.got.any (·.1 == y.lane)
  let far := (done.filter (·.target.isNonCoherent)).map (·.lane)
  let land := if ret then (run.got.filter fun x => !far.contains x.1).flatMap fun x => landRegs f.dst x.1 x.2.2 tag (memRegs f)
    else []
  let fl : Flight := { land, late := run.late, acq := f.rnd.getLsbD 2 && plain.any (·.isSystem), region }
  s.laneDone (if ret then (if done.isEmpty then s.g else s.g.addLoad (done.map (·.target.isWindow)) fl)
    else if plain.isEmpty then s.g else s.g.addFlight false true fl)

/-- R9, R60: a word whose AtomicOps for the lanes `bad` the host refuses performs none of its atomics (log 93): `s` is
the state before it, and `go` what it does otherwise. -/
def State.unlessRefused (s : State) (p : LanePlan) (bad : List LaneItem) (go : Res) : Res :=
  match bad with
  | [] => go
  | y :: _ =>
    .next ((s.setG (p.abort s.g)).raiseFault causeHostAbort (bad.foldl (fun m y => m ||| laneBit y.lane) 0) y.addr
      (BitVec.ofNat 64 y.lane))

/-- ATOM and CAS; `tag` is what a returned value carries. -/
def State.atomicWord (s0 : State) (f : LaneFields) (a : AtomSpec) (tag : Tag) : Res :=
  let g := s0.g
  s0.laneMem f (g.active f.guard &&& ~~~g.helpers) (atomicKind a.ret (!a.cas && ncRefuses a.op)) (g.oneAccess f)
    fun p items run s =>
      s0.unlessRefused p (if s0.midLanes.isNone then s0.refused a items else []) <|
        match State.atomicItems f a (s.limit.getD 33) s run items with
        | none => (s0.clearMid false).starve.laneWait .regionCommit
        | some (run, s', rest) => if rest.isEmpty then s'.atomicEnd f p run a.ret tag s.writeRegion else s'.midway p rest run

/-- R311, R407: the operand of ATOM in lane `i`; FADD reads a float, and every other operation raw bits. -/
def Group.atomSrc (g : Group) (f : LaneFields) (i : Nat) : Nat :=
  if f.ty = 9 then g.readFloat f f.b i (if memBytes f = 8 then 1 else 0) else g.memSrc f f.b i

/-- R407: what ATOM does. -/
def Group.atomSpec (g : Group) (f : LaneFields) : AtomSpec :=
  { op := f.ty.toNat, n := memBytes f, cas := false, ret := !f.sub.getLsbD 3, val := g.atomSrc f, rep := fun _ => 0 }

/-- R408: what CAS does. -/
def Group.casSpec (g : Group) (f : LaneFields) : AtomSpec :=
  { op := 1, n := memBytes f, cas := true, ret := true, val := g.memSrc f f.b, rep := g.memSrc f f.c }

/-- R407: ATOM. -/
def execAtom (f : LaneFields) (s : State) : Res :=
  s.atomicWord f (s.g.atomSpec f) (if f.ty = 9 then (if memBytes f = 8 then 53 else 24) else 0)

/-- R408: CAS. -/
def execCas (f : LaneFields) (s : State) : Res := s.atomicWord f (s.g.casSpec f) 0

/-- R160, R166, R409: the walk for one lane of a PREF: the state with the walker's marks, which a failing check does not
set; nothing while the page is to be migrated. -/
def State.prefLane (s : State) (a : Word) : Option State :=
  let s := s.askPage s.g.team a 1
  match s.check s.g.team a 1 .read false with
  | .ok _ marks skip starve => some (s.applyMarks marks skip starve)
  | .fault c => some (s.touchFail s.g.part c a.toNat)
  | .busy => none

/-- R409: PREF, in the executing lanes outside transactions (R234). -/
def execPref (f : LaneFields) (s : State) : Res :=
  if !s.fileOk f then s.illegal
  else
    let lanes := (lanesOf (s.g.active f.guard)).filter fun i => !s.g.inTx i
    match lanes.foldl (fun (r : Option State) i => r.bind fun s => s.prefLane (s.g.memAddr f i)) (some s) with
    | some s' => s'.laneDone s'.g
    | none => s.laneWait .translate

end Sys2Proof.Machine
end

