-- ==== Sys2Proof/Machine/Completion.lean ====
section
/-! DEFINITION. Sys2Proof/Machine/Completion.lean: what completes after its issue: loads and stores (R137-R139), page walks
(R163), migrations (R20, R21), and the retirement of groups and teams with the team record (R114, R117, R118). -/

namespace Sys2Proof.Machine

/-! ## Loads and stores -/

/-- R139: one value reaches its destination. -/
def Group.landOne (g : Group) : Landing → Group
  | .k r v => g.setK (BitVec.ofNat 6 r) v
  | .v k x => { g with v := SMap.set {} g.v k x }
  | .o k x => { g with o := SMap.set {} g.o k x }

/-- Every value of an instruction in flight reaches its destination. -/
def Group.landAll (g : Group) (f : Flight) : Group := f.land.foldl Group.landOne g

/-- R60: what an access to the non-coherent window makes of the old value. -/
def LateOp.new (op : LateOp) (n old : Nat) : Option Nat :=
  match op with
  | .read => none
  | .add x => some ((old + x) % 2 ^ (8 * n))
  | .swap x => some x
  | .cas c x => if old = c then some x else none
  | .dec _ _ _ => none

/-- R60, R188: the request of an access to the non-coherent window reaches the host: what it returns, and memory. -/
def State.performLate (s : State) (x : LateAccess) : List Landing × State :=
  let old := leNat (s.bytesAt x.loc x.len)
  (x.dest.landing x.len old,
    match x.op, x.op.new x.len old with
    | .dec part va n, _ => s.hostAdd part va x.loc n
    | _, some v => s.commitBytes x.loc (leBytes x.len v)
    | _, none => s)

/-- R188: the requests of an instruction of group `k` reach the host, after its stores that had been sent before. -/
def State.readLate (s : State) (k : Nat) (f : Flight) : Flight × State :=
  if f.late.isEmpty then (f, s)
  else
    foldState f.late ({ f with late := [] }, s.flushSent k f.seq) fun x r =>
      let (land, s) := r.2.performLate x
      ({ r.1 with land := r.1.land ++ land }, s)

/-- R59: a posted write reaches the host: its bytes, or its interrupt. -/
def State.deliver (s : State) (x : Posted) : State :=
  let s := if x.bytes.isEmpty then s else s.commitBytes x.loc x.bytes
  match x.irq with
  | some (fn, v) => { s with pkg := s.pkg.raiseVector fn v }
  | none => s

/-- R405: `y` is an older part of the same store as `x`, a lower lane's, and overlaps it. -/
def Posted.before (x y : Posted) : Bool :=
  x.store.isSome && y.store == x.store && decide (y.loc < x.loc + x.bytes.length) && decide (x.loc < y.loc + y.bytes.length)

/-- R59: the posted write with this index may be the next to reach the host: a store carries Relaxed Ordering, and the
lanes of one store that overlap keep their order; another write follows all before it. -/
def State.deliverTurn (s : State) (i : Nat) : Res :=
  match s.pkg.posted[i]? with
  | some x =>
    if !s.pkg.hostUp || (x.store.isNone && i ≠ 0) || (s.pkg.posted.take i).any x.before then .fault .notEnabled
    else .next ({ s with pkg := { s.pkg with posted := s.pkg.posted.eraseIdx i } }.deliver x)
  | none => .fault .notEnabled

/-- The in-flight list of a counter: 0 GL, 1 SP, 2 ST. -/
def Group.counterQ (g : Group) (counter : Nat) : List Flight :=
  if counter = 0 then g.gl else if counter = 1 then g.sp else g.st

/-- Replace it. -/
def Group.setCounterQ (g : Group) (counter : Nat) (q : List Flight) : Group :=
  if counter = 0 then { g with gl := q } else if counter = 1 then { g with sp := q } else { g with st := q }

/-- R60: access `j` of an instruction may reach the host next: a CAS follows the lanes before it. -/
def Flight.mayFetch (f : Flight) (j : Nat) : Bool :=
  j == 0 || (f.late[j]?).any fun x => match x.op with
    | .cas .. => false
    | _ => true

/-- R188: access `j` to the non-coherent window of an instruction in flight is performed. -/
def State.fetchTurn (s : State) (group counter index j : Nat) : Res :=
  let q := (s.group group).counterQ counter
  match q[index]?, (q[index]?).bind fun f => f.late[j]? with
  | some f, some x =>
    if !s.pkg.hostUp || !f.mayFetch j then .fault .notEnabled
    else
      let (land, s) := (s.flushSent group f.seq).performLate x
      let q := q.set index { f with late := f.late.eraseIdx j, land := f.land ++ land }
      .next (s.mapGroup group fun g => g.setCounterQ counter q)
  | _, _ => .fault .notEnabled

/-- A group that a team of the machine still has. -/
def State.present (s : State) (group : Nat) : Bool :=
  let t := s.team (s.group group).team
  t.phase == .resident || t.phase == .saving || t.phase == .killing

/-- R137: the entry of GL that holds the values of the load whose entry of SP is `f`. -/
def Group.twin (g : Group) (f : Flight) : Option Flight := g.gl.find? (·.seq == f.seq)

/-- R137: the load of GL with this number has delivered its values. -/
def Group.emptyTwin (g : Group) (seq : Nat) : Group :=
  { g with gl := g.gl.map fun x => if x.seq = seq then { x with land := [], late := [] } else x }

/-- R62: the host link is down, and requests of an instruction in flight have not reached the host. -/
def State.cutOff (s : State) (f : Flight) : Bool := !s.pkg.hostUp && !f.late.isEmpty

/-- R62: group `k`, whose instruction in flight is cut off from the host, faults with HOST_ABORT over the first of its
requests; one that has halted or is being killed does not (log 108). -/
def State.abortLate (s : State) (k : Nat) (f : Flight) : State :=
  let g := s.group k
  match f.late with
  | x :: _ =>
    if g.stop = .halt || (s.team g.team).phase = .killing then s
    else
      let info := if x.lane < 32 then x.lane else match x.op with
        | .dec .. => 32
        | _ => 0
      { s with actor := k }.raiseFault causeHostAbort (if x.lane < 32 then laneBit x.lane else 0) x.addr (BitVec.ofNat 64 info)
  | [] => s

/-- LOAD_COMPLETE (R137-R139): the oldest load of GL (counter 0) or SP (counter 1) completes, once every lane's value
stands in its destination. -/
def execLoadComplete (group counter : Nat) (s : State) : Res :=
  let g := s.group group
  if !s.present group then .fault .notEnabled
  else if counter = 0 then
    match g.gl with
    | [] => .fault .notEnabled
    | f :: rest =>
      if s.cutOff f then .next ((s.mapGroup group fun g => { g with gl := rest }).abortLate group f)
      else
        let (f, s) := s.readLate group f
        .next (s.mapGroup group fun g => { g with gl := rest }.landAll f)
  else
    match g.sp with
    | [] => .fault .notEnabled
    | f :: rest =>
      let x := (g.twin f).getD f
      if s.cutOff x then .next ((s.mapGroup group fun g => { g with sp := rest }.emptyTwin f.seq).abortLate group x)
      else
        let (x, s) := s.readLate group x
        .next (s.mapGroup group fun g => ({ g with sp := rest }.emptyTwin f.seq).landAll x)

/-- R139: what a load in flight delivers to lane `i` (32 for the control stream) lands before the load completes. -/
def State.landEarly (s : State) (group counter index i : Nat) : Res :=
  let q := (s.group group).counterQ counter
  match q[index]? with
  | none => .fault .notEnabled
  | some f =>
    let now := f.land.filter fun x => x.lane == i
    if now.isEmpty then .fault .notEnabled
    else
      let q := q.set index { f with land := f.land.filter fun x => x.lane != i }
      .next (s.mapGroup group fun g => (g.setCounterQ counter q).landAll { land := now })

/-- R59: the posted writes of a store have been sent on the link; the host performs them when they reach it. -/
def State.markSent (s : State) (group seq : Nat) : State :=
  let mark := fun (x : Posted) => if x.store == some (group, seq) then { x with sent := some (s.group group).seq } else x
  { s with pkg := { s.pkg with posted := s.pkg.posted.map mark } }

/-- STORE_ACK (R59, R137): the oldest store of a group is acknowledged, or sent on the link; an atomic without a returned
value that it is has been performed by then. -/
def execStoreAck (group : Nat) (s : State) : Res :=
  if !s.present group then .fault .notEnabled
  else
    match (s.group group).st with
    | [] => .fault .notEnabled
    | f :: rest =>
      if s.cutOff f then .next ((s.mapGroup group fun g => { g with st := rest }).abortLate group f)
      else .next (((s.readLate group f).2.markSent group f.seq).mapGroup group fun g => { g with st := rest })

/-- R137, R282: everything that a group has in flight completes. -/
def State.drainGroup (s : State) (k : Nat) : State :=
  let g := s.group k
  let s := foldState (g.gl ++ g.st) s fun f s => if s.cutOff f then s else (s.readLate k f).2
  let s := foldState g.st s fun f s => s.markSent k f.seq
  s.mapGroup k fun g => { g with gl := [], sp := [], st := [] }

/-! ## Walks and migrations -/

/-- WALK_COMPLETE (R163): the translation that a stream waits for is at hand, and its instruction may issue or fault;
the entries' A and D bits are set with the access (R160). -/
def execWalkComplete (group : Nat) (control : Bool) (s : State) : Res :=
  let g := s.group group
  if !s.present group || (if control then g.cwait else g.lwait) ≠ some .translate then .fault .notEnabled
  else .next (s.mapGroup group fun g => (g.walkDone control))

/-- The address of the level-1 entry of `va`, under the table of level `n + 1` at `base`. -/
def State.leafEntry (s : State) (va : Nat) : Nat → Nat → Option Nat
  | 0, _ => none
  | n + 1, base =>
    let a := base + 8 * (va / 2 ^ (12 + 9 * n) % 512)
    let e := s.wordAt a
    if n = 0 then some a else if !bit e 0 || bit e 1 then none else s.leafEntry va n (pteBase e)

/-- R20: set BUSY in the sixteen entries from `a` on. -/
def State.markBusy (s : State) (a : Nat) : State :=
  foldState (List.range 16) s fun i s => s.commitBytes (a + 8 * i) (wordBytes 8 (s.wordAt (a + 8 * i) ||| at_ 1 9))

/-- MIGRATION_START (R19, R20): a page that an access would migrate: its unit is marked busy and a frame is claimed. -/
def execMigrationStart (part : Nat) (va : Word) (s : State) : Res :=
  let p := s.part part
  if p.state = .free || s.checkVa part va.toNat .read false ≠ .busy then .fault .notEnabled
  else
    match s.leafEntry va.toNat 5 (field p.page.ptRoot 12 40 * 4096), s.nextFrame with
    | some a, some i =>
      if bit (s.wordAt a) 9 then .fault .notEnabled
      else
        let a := a / 128 * 128
        let m := field s.pkg.migMap 3 49 * 8 + i / 8
        let s := s.markBusy a
        let s := s.commitBytes m [s.byteAt m ||| (1#8 <<< (i % 8))]
        .next { s with pkg := { s.pkg with
          moves := s.pkg.moves ++ [{ part, ptes := a, frame := field s.pkg.migPool 16 36 * 65536 + i * 65536 }] } }
    | _, _ => .fault .notEnabled

/-- Where a physical address of the page at `src` lies once the page stands at `dst`. -/
def moved (src dst pa : Nat) : Nat := if pa / 4096 = src / 4096 then dst + pa % 4096 else pa

/-- R21: the logs of an open transaction follow the page. -/
def TxState.move (x : TxState) (src dst : Nat) : TxState :=
  let go := fun (es : List LogEntry) => es.map fun e => { e with granule := moved src dst e.granule }
  { x with reads := x.reads.map fun y => (y.1, go y.2), writes := x.writes.map fun y => (y.1, go y.2) }

/-- R20, R21: what a group keeps of a translation follows the page: its transaction, and a watched line, whose copy is a
write of it (R110). -/
def Group.move (g : Group) (src dst : Nat) : Group :=
  let park := match g.park with
    | some (.waitm d a n w wake since) =>
      some (.waitm d a n (moved src dst w) (wake || decide (w / 4096 = src / 4096)) since)
    | x => x
  { g with tx := g.tx.move src dst, park }

/-- R20: a region's status word, translated at its opening, follows the page. -/
def Region.move (r : Region) (src dst : Nat) : Region :=
  { r with rsw := r.rsw.map fun t => match t with
      | .dev pa => .dev (moved src dst pa)
      | t => t }

/-- What the teams and groups of a partition keep of a translation follows the page. -/
def State.retarget (s : State) (part src dst : Nat) : State :=
  { s with
    groups := s.groups.map fun x => (x.1, if x.2.part = part then x.2.move src dst else x.2)
    teams := s.teams.map fun x => (x.1, if x.2.part = part then { x.2 with
      openRegion := x.2.openRegion.map (·.move src dst), pending := x.2.pending.map (·.move src dst) } else x.2) }

/-- R20 steps 4 and 5 for entry `i` of a unit: copy its page and write its entry. -/
def State.movePage (s : State) (m : Migration) (i : Nat) : State :=
  let a := m.ptes + 8 * i
  let e := s.wordAt a
  let dst := m.frame + i * 4096
  let s := (s.retarget m.part (pteBase e) dst).commitBytes dst (s.bytesAt (pteBase e) 4096)
  let e := (e &&& ~~~(at_ (2 ^ 40 - 1) 12) &&& ~~~(at_ 7 7)) ||| at_ (dst / 4096 % 2 ^ 40) 12
  s.commitBytes a (wordBytes 8 e)

/-- R288: the words of a partition's streams that waited for a migration are stored. -/
def State.traceDrain (s : State) (part : Nat) : State :=
  foldState (List.range 4) s fun die s =>
    if ((s.part part).dbg.traceWait.get [] die).isEmpty then s else s.traceWords part die []

/-- MIGRATION_COMPLETE (R20, R21): the unit is copied, its entries are written, and the waiting accesses may issue.  No
access through the old entries is in flight by then: each is translated at its point (R161). -/
def execMigrationComplete (i : Nat) (s : State) : Res :=
  match s.pkg.moves[i]? with
  | none => .fault .notEnabled
  | some m =>
    let t := foldState (List.range 16) s fun j s => s.movePage m j
    let own := (List.range (t.stores.length - s.stores.length)).map (s.stores.length + ·)
    .next ({ t with pkg := { t.pkg with moves := t.pkg.moves.eraseIdx i }, own := own ++ t.own }.traceDrain m.part)

/-! ## Retirement -/

/-- GROUP_RETIRE (R117): a group at END whose lane work is done and whose counters are 0 retires; its END completes, in a
cycle of its own (R113). -/
def execGroupRetire (group : Nat) (s : State) : Res :=
  let g := s.group group
  let t := s.team g.team
  if t.phase ≠ .resident || !g.ended || g.retired || g.stop ≠ .none || g.restarting || !g.laneIdle || g.handlerBlock.isSome ||
      !g.gl.isEmpty || !g.sp.isEmpty || !g.st.isEmpty then .fault .notEnabled
  else
    let s := ((s.mapGroup group fun g => { g with
      retired := true, cq := [], ctlIssued := g.ctlIssued + 1 }).takeSlot group true true).mapGroup group Group.flushIssued
    if (s.groupsOf g.team).all fun k => (s.group k).retired then
      .next (s.setTeam g.team { s.team g.team with retireNs := s.nsNow.toNat })
    else .next s

/-- A sum over a team's groups. -/
def State.sumGroups (s : State) (team : Nat) (f : Group → Nat) : Nat :=
  ((s.groupsOf team).map fun k => f (s.group k)).foldl (· + ·) 0

/-- R114: the team record. -/
def State.teamRecord (s : State) (team : Nat) (task : Word) : List Word :=
  let t := s.team team
  let n := fun (f : Group → Nat) => BitVec.ofNat 64 (s.sumGroups team f)
  let sat := (s.groupsOf team).any fun k => (s.group k).stall.any fun x => x.2 == 0xFFFFFFFF
  [task,
    word [at_ t.unit 48, at_ t.member 46, at_ t.type.groups 40, at_ (dieOf t.core) 38, at_ (clusterOf t.core % 16) 34,
      at_ (t.core % 4) 32, at_ t.preempts 16, at_ t.replays 0],
    BitVec.ofNat 64 t.admitNs, BitVec.ofNat 64 t.retireNs, n (·.groupCycles), n (·.issueCycles), n (·.laneIssued), n (·.ctlIssued),
    n (·.paired), word [at_ (b2n t.killed) 7, at_ (b2n sat) 6], 0, 0, 0, 0, 0, 0] ++
  (List.range 16).map fun i => n fun g => (g.stall.get 0 i).toNat

/-- Write successive words, each with an ordinary store. -/
def State.agentWords (part : Nat) : State → Word → List Word → Except AgentStop State
  | s, _, [] => .ok s
  | s, a, w :: ws =>
    match s.agentSet part a w with
    | .error e => .error e
    | .ok s => State.agentWords part s (a + 8) ws

/-- R69, R80: RETIRED of a launch's record counts a team. -/
def State.countRetired (s : State) (part : Nat) (l : Launch) : Except AgentStop State :=
  match s.agentLoc part l.record 128 .write with
  | .error e => .error e
  | .ok (loc, s) =>
    let st := s.wordAt (loc + 0x68)
    let s := s.commitBytes (loc + 0x68)
      (wordBytes 8 ((st &&& ~~~(at_ 0xFFFF 32)) ||| at_ (min 65535 (field st 32 16 + 1)) 32))
    .ok (s.mapLaunch part l.id fun l => { l with retired := l.retired + 1 })

/-- A team leaves the machine. -/
def State.dropTeam (s : State) (team : Nat) : State :=
  let s := foldState (s.groupsOf team) s fun k s => { s with groups := SMap.del s.groups k }
  { s with teams := SMap.del s.teams team }

/-- The keys of the members of a cohort. -/
def State.members (s : State) (part cohort : Nat) : List Nat :=
  (s.teams.filter fun (_, t) => t.part == part && t.cohort == cohort).map (·.1)

/-- R118: the allotments of a unit are freed once every member is done; a spawned unit's completion entry is then to be
decremented (R85). -/
def State.freeUnit (s : State) (team : Nat) : State :=
  let t := s.team team
  let ms := s.members t.part t.cohort
  if !(ms.all fun k => (s.team k).phase == .done) then s
  else
    let p := s.part t.part
    let task := ((s.launchOf t).map (·.record)).getD 0
    let work := if t.completion = 0 then [] else
      let (a, n) := succEntry t.completion
      [Work.dec task a n]
    let s := s.setPart t.part { p with work := p.work ++ work }
    foldState ms s fun k s => s.dropTeam k

/-- R99, R118: a team leaves its core's queue, and its unit's allotments are freed when they can be. -/
def State.vacate (s : State) (team : Nat) : State :=
  let t := s.team team
  let c := s.core t.core
  let s := s.setCore t.core { c with teamQ := c.teamQ.filter (· != team) }
  let s := s.traceEvent t.part (dieOf t.core) 0x11 (s.gid0 team + 2 ^ 14) none
  (s.setTeam team { s.team team with phase := .done }).freeUnit team

/-- R80, R114, R118, R282: a team's record is written, it is counted, and its unit's allotments are freed when they can
be. -/
def State.retireTeam (s : State) (team : Nat) : Except AgentStop State :=
  let t := s.team team
  let recorded : Except AgentStop State := match s.launchOf t with
    | none => .ok s
    | some l =>
      let j := t.unit * (t.type.cohort + 1) + t.member
      let written : Except AgentStop State := if l.trec = 0 then .ok s
        else State.agentWords t.part s (l.trec + BitVec.ofNat 64 (256 * j)) (s.teamRecord team l.record)
      match written with
      | .error e => .error e
      | .ok s => s.countRetired t.part l
  match recorded with
  | .error e => .error e
  | .ok s => .ok (s.vacate team)

/-- TEAM_RETIRE (R118, R346): every group has retired and no engine command of the team is left. -/
def execTeamRetire (team : Nat) (s : State) : Res :=
  let t := s.team team
  let p := s.part t.part
  if t.phase ≠ .resident || p.state ≠ .run || p.halt.isSome || !((s.groupsOf team).all fun k => (s.group k).retired) ||
      !(s.commandsOf team).isEmpty then .fault .notEnabled
  else s.agentStep t.part (s.retireTeam team)

end Sys2Proof.Machine
end

