-- ==== Sys2Proof/Machine/ControlAlu.lean ====
section
/-! DEFINITION. Sys2Proof/Machine/ControlAlu.lean: the 64-bit arithmetic, immediate, compare and predicate instructions
of the control stream (R318-R324). -/

namespace Sys2Proof.Machine

/-- R318: a control instruction whose only effect is `kd ← v`. -/
def State.ctlSet (s : State) (d : BitVec 6) (v : Word) : Res := s.ctlDone (s.g.setK d v)

/-- R320: a KALU form. -/
def State.kalu (s : State) (d a b : BitVec 6) (f : Word → Word → Word) : Res := s.ctlSet d (f (s.g.getK a) (s.g.getK b))

/-- R320: the shift amount of a register. -/
def shiftAmount (b : Word) : Nat := b.toNat % 64

/-- R320: bits [127:64] of the signed product. -/
def mulHigh (a b : Word) : Word := BitVec.ofInt 64 (a.toInt * b.toInt / 2 ^ 64)

/-- R320: bits [127:64] of the unsigned product. -/
def mulHighU (a b : Word) : Word := BitVec.ofNat 64 (a.toNat * b.toNat / 2 ^ 64)

/-- R320: leading zero bits, 64 for 0. -/
def clz64 (a : Word) : Nat := if a = 0 then 64 else 63 - Nat.log2 a.toNat

/-- R320: set bits. -/
def popc64 (a : Word) : Nat := (List.range 64).foldl (fun n i => n + b2n (bit a i)) 0

/-- R320: KALU ADD. -/
def execKaluAdd (d a b : BitVec 6) (s : State) : Res := s.kalu d a b fun x y => x + y
/-- R320: KALU SUB. -/
def execKaluSub (d a b : BitVec 6) (s : State) : Res := s.kalu d a b fun x y => x - y
/-- R320: KALU MUL. -/
def execKaluMul (d a b : BitVec 6) (s : State) : Res := s.kalu d a b fun x y => x * y
/-- R320: KALU MULH. -/
def execKaluMulh (d a b : BitVec 6) (s : State) : Res := s.kalu d a b mulHigh
/-- R320: KALU MULHU. -/
def execKaluMulhu (d a b : BitVec 6) (s : State) : Res := s.kalu d a b mulHighU
/-- R320: KALU AND. -/
def execKaluAnd (d a b : BitVec 6) (s : State) : Res := s.kalu d a b fun x y => x &&& y
/-- R320: KALU OR. -/
def execKaluOr (d a b : BitVec 6) (s : State) : Res := s.kalu d a b fun x y => x ||| y
/-- R320: KALU XOR. -/
def execKaluXor (d a b : BitVec 6) (s : State) : Res := s.kalu d a b fun x y => x ^^^ y
/-- R320: KALU ANDN. -/
def execKaluAndn (d a b : BitVec 6) (s : State) : Res := s.kalu d a b fun x y => x &&& ~~~y
/-- R320: KALU SHL. -/
def execKaluShl (d a b : BitVec 6) (s : State) : Res := s.kalu d a b fun x y => x <<< shiftAmount y
/-- R320: KALU SHR. -/
def execKaluShr (d a b : BitVec 6) (s : State) : Res := s.kalu d a b fun x y => x >>> shiftAmount y
/-- R320: KALU SRA. -/
def execKaluSra (d a b : BitVec 6) (s : State) : Res := s.kalu d a b fun x y => x.sshiftRight (shiftAmount y)
/-- R320: KALU MIN. -/
def execKaluMin (d a b : BitVec 6) (s : State) : Res := s.kalu d a b fun x y => if y.slt x then y else x
/-- R320: KALU MAX. -/
def execKaluMax (d a b : BitVec 6) (s : State) : Res := s.kalu d a b fun x y => if x.slt y then y else x
/-- R320: KALU MINU. -/
def execKaluMinu (d a b : BitVec 6) (s : State) : Res := s.kalu d a b fun x y => if y.ult x then y else x
/-- R320: KALU MAXU. -/
def execKaluMaxu (d a b : BitVec 6) (s : State) : Res := s.kalu d a b fun x y => if x.ult y then y else x
/-- R320: KALU CLZ. -/
def execKaluClz (d a : BitVec 6) (s : State) : Res := s.ctlSet d (BitVec.ofNat 64 (clz64 (s.g.getK a)))
/-- R320: KALU POPC. -/
def execKaluPopc (d a : BitVec 6) (s : State) : Res := s.ctlSet d (BitVec.ofNat 64 (popc64 (s.g.getK a)))

/-- R321: ADDI. -/
def execAddi (d a : BitVec 6) (i : BitVec 14) (s : State) : Res := s.ctlSet d (s.g.getK a + i.signExtend 64)
/-- R321: ANDI. -/
def execAndi (d a : BitVec 6) (i : BitVec 14) (s : State) : Res := s.ctlSet d (s.g.getK a &&& i.setWidth 64)
/-- R321: ORI. -/
def execOri (d a : BitVec 6) (i : BitVec 14) (s : State) : Res := s.ctlSet d (s.g.getK a ||| i.setWidth 64)
/-- R321: XORI. -/
def execXori (d a : BitVec 6) (i : BitVec 14) (s : State) : Res := s.ctlSet d (s.g.getK a ^^^ i.setWidth 64)
/-- R321: SHLI. -/
def execShli (d a n : BitVec 6) (s : State) : Res := s.ctlSet d (s.g.getK a <<< n.toNat)
/-- R321: SHRI. -/
def execShri (d a n : BitVec 6) (s : State) : Res := s.ctlSet d (s.g.getK a >>> n.toNat)
/-- R321: SRAI. -/
def execSrai (d a n : BitVec 6) (s : State) : Res := s.ctlSet d ((s.g.getK a).sshiftRight n.toNat)

/-- R322: LI. -/
def execLi (d : BitVec 6) (i : BitVec 20) (s : State) : Res := s.ctlSet d (i.signExtend 64)
/-- R322: LIS. -/
def execLis (d : BitVec 6) (i : BitVec 20) (s : State) : Res :=
  s.ctlSet d ((s.g.getK d <<< (20 : Nat)) ||| i.setWidth 64)

/-- R323: a comparison that writes a predicate. -/
def State.ctlCompare (s : State) (c p : BitVec 3) (x y : Word) : Res := s.ctlDone (s.g.setC p (intCond c x y))

/-- R323: CMP. -/
def execCmp (c p : BitVec 3) (a b : BitVec 6) (s : State) : Res := s.ctlCompare c p (s.g.getK a) (s.g.getK b)
/-- R323: CMPI. -/
def execCmpi (c p : BitVec 3) (a : BitVec 6) (i : BitVec 14) (s : State) : Res :=
  s.ctlCompare c p (s.g.getK a) (i.signExtend 64)

/-- R324: PAND. -/
def execPand (d a b : BitVec 3) (s : State) : Res := s.ctlDone (s.g.setC d (s.g.getC a && s.g.getC b))
/-- R324: POR. -/
def execPor (d a b : BitVec 3) (s : State) : Res := s.ctlDone (s.g.setC d (s.g.getC a || s.g.getC b))
/-- R324: PNOT. -/
def execPnot (d a : BitVec 3) (s : State) : Res := s.ctlDone (s.g.setC d (!s.g.getC a))
/-- R324: SEL. -/
def execSel (d a b : BitVec 6) (p : BitVec 3) (s : State) : Res :=
  s.ctlSet d (if s.g.getC p then s.g.getK a else s.g.getK b)

end Sys2Proof.Machine
end

