-- ==== Sys2Proof/Machine/ControlFlow.lean ====
section
/-! DEFINITION. Sys2Proof/Machine/ControlFlow.lean: branches, calls, loops, END, the lane interface, format and special
registers, CWAIT, traps, calls to the host and NOP (R325-R328, R334-R344). -/

namespace Sys2Proof.Machine

/-- R325: a branch of `off` words from its own address, and a link, where it is taken. -/
def State.branchTo (s : State) (taken link : Bool) (off : BitVec 19) : Res :=
  let g := if taken && link then s.g.setK 62 (s.g.cpc + 4) else s.g
  s.ctlJump g (if taken then s.g.cpc + 4 * off.signExtend 64 else s.g.cpc + 4)

/-- R325: B. -/
def execBranch (o : BitVec 19) (s : State) : Res := s.branchTo true false o
/-- R325: B.T. -/
def execBranchT (p : BitVec 3) (o : BitVec 19) (s : State) : Res := s.branchTo (s.g.getC p) false o
/-- R325: B.F. -/
def execBranchF (p : BitVec 3) (o : BitVec 19) (s : State) : Res := s.branchTo (!s.g.getC p) false o
/-- R325: CALL. -/
def execCall (o : BitVec 19) (s : State) : Res := s.branchTo true true o
/-- R325: CALL.T. -/
def execCallT (p : BitVec 3) (o : BitVec 19) (s : State) : Res := s.branchTo (s.g.getC p) true o
/-- R325: CALL.F. -/
def execCallF (p : BitVec 3) (o : BitVec 19) (s : State) : Res := s.branchTo (!s.g.getC p) true o

/-- R326: a jump to a register's value, with or without a link. -/
def State.jumpTo (s : State) (target : Word) (link : Bool) : Res :=
  if target.toNat % 4 != 0 then s.fault causeMisaligned target 0
  else s.ctlJump (if link then s.g.setK 62 (s.g.cpc + 4) else s.g) target

/-- R326: JR. -/
def execJr (a : BitVec 6) (s : State) : Res := s.jumpTo (s.g.getK a) false
/-- R326: JR.L. -/
def execJrL (a : BitVec 6) (s : State) : Res := s.jumpTo (s.g.getK a) true

/-- R327: LOOP. -/
def execLoop (d : BitVec 6) (o : BitVec 14) (s : State) : Res :=
  let v := s.g.getK d - 1
  s.ctlJump (s.g.setK d v) (if v ≠ 0 then s.g.cpc + 4 * o.signExtend 64 else s.g.cpc + 4)

/-- R354: the descriptor of the first accepted slice of a collective of the team that lacks slices. -/
def State.shortCollective (s : State) (team : Nat) : Option Word :=
  let q := (s.liveCommands team).filter (·.kind == .tcopyC)
  (q.find? fun x => (q.filter (·.collid == x.collid)).length < x.nslices).map (·.addr)

/-- R126, R328: END.  The control stream waits at it until the group retires (R117); a trap of the lane stream stops
the wait, and END issues again after TRET (R275). -/
def execCtlEnd (s : State) : Res :=
  let g := s.g
  s.unlessHeld <|
    match s.waitingAt with
    | some x => s.fault causeRegionMismatch x 0
    | none =>
      if s.t.speculative then s.fault causeRegionNest 0 0
      else
        let last := (s.partners g.team).all (· == s.actor)
        match if last then s.shortCollective g.team else none with
        | some x => s.fault causeIllegalOp x 0
        | none =>
          let g := if g.inHandler then { g with trapSlot := none, lq := [], heldTrap := none } else g
          .next (s.setG { g with ended := true, cwait := none }).closeAll

/-- R122: the arguments that LRUN copies. -/
def Group.lrunArgs (g : Group) (a : BitVec 6) (n : BitVec 3) : List Word :=
  (List.range (n.toNat + 1)).map fun j => g.getK (a + BitVec.ofNat 6 j)

/-- R334: LRUN. -/
def execLrun (a : BitVec 6) (n : BitVec 3) (o : BitVec 17) (s : State) : Res :=
  s.unlessHeld <|
    let g := s.g
    let b : LaneBlock := { start := o, args := g.lrunArgs a n, fmt := g.fmt }
    if g.inHandler then
      if g.handlerBlock.isSome then s.ctlWait .cqWait else s.ctlDone { g with handlerBlock := some b }
    else if 8 ≤ g.lq.length then s.ctlWait .cqWait
    else s.ctlDone { g with lq := g.lq ++ [b] }

/-- R335: CPOP. -/
def execCpop (d : BitVec 6) (s : State) : Res :=
  s.unlessHeld <|
    let g := s.g
    match g.cq with
    | w :: q => s.ctlDone ({ g with cq := q }.setK d w)
    | [] =>
      if g.laneIdle && g.handlerBlock.isNone then s.fault causeCqStarve 0 0 else s.ctlWait .cqWait

/-- R336: LSYNC. -/
def execLsync (s : State) : Res := s.unlessHeld <| if s.g.synced then s.ctlDone s.g else s.ctlWait .cqWait

/-- R337: SETFMT. -/
def execSetfmt (a : BitVec 6) (s : State) : Res :=
  let v := s.g.getK a
  if 5 ≤ field v 0 3 then s.illegal else s.ctlDone { s.g with fmt := BitVec.ofNat 32 (field v 0 12) }

/-- R337: GETFMT. -/
def execGetfmt (d : BitVec 6) (s : State) : Res := s.ctlSet d (s.g.fmt.setWidth 64)

/-- R281: OPC of a command. -/
def CmdKind.opc : CmdKind → Nat
  | .tcopy => 1
  | .rqt => 2
  | .mma => 3
  | .tload => 4
  | .tstore => 5
  | .tgath => 6
  | .tcopyC => 7
  | .tzero => 0

/-- R345: the command runs on the matrix engine. -/
def CmdKind.onMatrix : CmdKind → Bool
  | .mma => true
  | .tload => true
  | .tstore => true
  | .tzero => true
  | _ => false

/-- R281: blocks completed, with their writes performed. -/
def Cmd.index (c : Cmd) : Nat := (c.held.map (·.block)).foldl min c.done

/-- R281: the progress word of a command. -/
def Cmd.progress (c : Cmd) : Word :=
  word [at_ (if c.kind.onMatrix then 1 else 2) 60, at_ c.kind.opc 56, at_ (c.bar.getD 0) 52, at_ (b2n c.bar.isNone) 51,
    at_ (c.index % 2 ^ 32) 0]

/-- Put a command into a list that is ordered by acceptance. -/
def insertCmd (c : Cmd) : List Cmd → List Cmd
  | [] => [c]
  | x :: q => if c.id < x.id then c :: x :: q else x :: insertCmd c q

/-- R281: the group's uncompleted commands, oldest first. -/
def State.groupCommands (s : State) : List Cmd :=
  ((s.liveCommands s.g.team).filter fun c => c.group == s.g.idx && c.kind != .tzero).foldl (fun q c => insertCmd c q) []

/-- R197: the team's current rung. -/
def Team.rung (t : Team) : Nat :=
  match t.openRegion.orElse fun _ => t.pending with
  | some r => r.rung
  | none => 7

/-- R81, R317: RLO and RHI of the team's unit. -/
def State.unitRange (s : State) : Nat × Nat :=
  match s.launchOf s.t with
  | some l => if l.range && !l.draw then l.ivs.get (0, 0) s.t.unit else (0, 0)
  | none => (0, 0)

/-- R317: the special registers. -/
def State.special (s : State) (r : Nat) : Word :=
  let g := s.g
  let t := s.t
  let nat := BitVec.ofNat 64
  match r with
  | 0x00 => nat (s.gid g)
  | 0x01 => nat g.idx
  | 0x02 => nat t.member
  | 0x03 => nat t.core
  | 0x04 => nat (clusterOf t.core)
  | 0x05 => nat (dieOf t.core)
  | 0x06 => nat t.unit
  | 0x07 => t.param
  | 0x08 => nat s.unitRange.1
  | 0x09 => nat s.unitRange.2
  | 0x0A => nat t.rung
  | 0x0B => nat t.regSeq
  | 0x0C => nat (s.clusters.get {} (clusterOf t.core)).cycles
  | 0x0D => s.nsNow
  | 0x10 => g.trapV
  | 0x11 => g.trapPc
  | 0x12 => g.trapLanes
  | 0x14 => g.trapInfo0
  | 0x15 => g.trapInfo1
  | 0x16 => g.trapInfo2
  | 0x17 => g.trapInfo3
  | 0x18 => g.tx.cause
  | 0x1C => ((s.groupCommands[0]?).map (·.progress)).getD 0
  | 0x1D => ((s.groupCommands[1]?).map (·.progress)).getD 0
  | 0x1E => ((s.groupCommands[2]?).map (·.progress)).getD 0
  | 0x1F => ((s.groupCommands[3]?).map (·.progress)).getD 0
  | _ => 0

/-- R338: SREAD. -/
def execSread (d : BitVec 6) (r : BitVec 8) (s : State) : Res := s.ctlSet d (s.special r.toNat)

/-- R338: SWRITE, which writes TRAPINFO1. -/
def execSwrite (a : BitVec 6) (_r : BitVec 8) (s : State) : Res :=
  s.unlessHeld <| s.ctlDone { s.g with trapInfo1 := s.g.getK a }

/-- R339: what CWAIT counts, and the reason it counts while it waits. -/
def Group.counter (g : Group) (c : BitVec 2) : Nat × Wait :=
  match c.toNat with
  | 0 => (g.gl.length, .cwaitGl)
  | 1 => (g.sp.length, .cwaitSp)
  | _ => (g.st.length, .cwaitSt)

/-- R339: CWAIT. -/
def execCwait (a : BitVec 6) (c : BitVec 2) (s : State) : Res :=
  let g := s.g
  let (n, w) := g.counter c
  let v := g.threshold.getD (g.getK a)
  if n ≤ v.toNat then s.ctlDone { g with threshold := none }
  else .next (s.setG { g with cwait := some w, threshold := some v })

/-- R340: ASSERT. -/
def execAssert (a : BitVec 6) (n : BitVec 1) (p : BitVec 3) (s : State) : Res :=
  s.unlessHeld <| if s.g.getC p == (n == 1) then s.fault causeAssert (s.g.getK a) 32 else s.ctlDone s.g

/-- R54: CQ_CTL.LOG2, where it enables the call queue. -/
def Partition.ringLog (p : Partition) : Option Nat :=
  let n := field p.page.cqCtl 0 5
  if 6 ≤ n ∧ n ≤ 16 then some n else none

/-- R341: SCALL up to its parking. -/
def execScall (d a : BitVec 6) (c : BitVec 14) (s : State) : Res :=
  s.unlessHeld <|
    if s.t.speculative then s.fault causeRegionEffect 0 0
    else
      match s.p.ringLog with
      | none => s.fault causeNoCallq 0 0
      | some _ =>
        let g := s.g
        let args := (List.range 4).map fun j => g.getK (a + BitVec.ofNat 6 j)
        .next (s.setG { g with park := some (.scall d c g.cpc args g.seq), inCall := true, cwait := none })

/-- R285, R286, R342: BRK; where it is stepped, the end of the step writes its record. -/
def execBrk (c : BitVec 20) (s : State) : Res :=
  s.unlessHeld <|
    let g := { s.g with cpc := s.g.cpc + 4, cwait := none }
    if bit s.p.dbg.ctl 0 then
      let s := s.setG { g with stop := .debug, asked := false }
      let r := s.groupRecord g 4 0 0 0 0
      .next (if g.stepping = some true then s else if g.asked then s.addStop g.part s.actor r else s.queueDump g.part 1 [r])
    else
      .next (s.takeTrap g { cause := causeBrk, pc := s.g.cpc, lanes := 0, detail := c.setWidth 32, info2 := 0
                            control := true, tx := false })

/-- R343: TRET. -/
def execTret (s : State) : Res := s.unlessHeld s.returnFromTrap

/-- R344: NOP. -/
def execNop (s : State) : Res := s.ctlDone s.g

end Sys2Proof.Machine
end

