-- ==== Sys2Proof/Machine/CallQueue.lean ====
section
/-! DEFINITION. Sys2Proof/Machine/CallQueue.lean: the call queue (R53-R56, R341): posting a call record, the reads of the
consumer word with the events CQ_CONS_READ and CQ_REREAD, and the end of a call. -/

namespace Sys2Proof.Machine

/-- Address of the consumer word on the host bus. -/
def Partition.consumer (p : Partition) : Nat := field p.page.cqCons 3 61 * 8

/-- Location of a call record (R53). -/
def Partition.callLoc (p : Partition) (slot : Nat) : Nat := hostLoc (field p.page.cqBase 12 52 * 4096 + 64 * slot)

/-- Address of a wake word (R54 step 4). -/
def Partition.wakeAddr (p : Partition) (slot : Nat) : Word := at_ (field p.page.cqWake 3 54) 3 + BitVec.ofNat 64 (8 * slot)

/-- Set a bit of PART_ERR. -/
def State.partErr (s : State) (part i : Nat) : State :=
  let p := s.part part
  s.setPart part { p with page := { p.page with err := p.page.err ||| (1#8 <<< i) } }

/-- R53: the header of a call record. -/
def callHeader (part callno prod log : Nat) : Word :=
  word [at_ callno 16, at_ (part % 8) 8, at_ ((prod >>> log + 1) % 2) 0]

/-- R54 steps 3-6, R63: the SCALL of a group takes a slot, and its record goes to the host as posted writes: the body, the
header, and the interrupt. -/
def State.postCall (s : State) (part key log : Nat) : Except AgentStop State :=
  let g := s.group key
  match g.park with
  | some (.scall kd callno pc args _) =>
    let p := s.part part
    let prod := p.page.cqProd.toNat
    let slot := prod % 2 ^ log
    match s.agentSet part (p.wakeAddr slot) 1 with
    | .error e => .error e
    | .ok s =>
      let p := s.part part
      let s := s.setPart part { p with page := { p.page with cqProd := p.page.cqProd + 1 } }
      let body := [BitVec.ofNat 64 (s.gid g), pc, 0] ++ (List.range 4).map fun j => args.getD j 0
      let s := s.post { loc := p.callLoc slot + 8, bytes := wordsBytes body }
      let s := s.post { loc := p.callLoc slot, bytes := wordBytes 8 (callHeader part callno.toNat prod log) }
      let s := if bit p.page.cqCtl 8 then s.post { irq := some (p.function, field p.page.cqCtl 16 8) } else s
      .ok (s.mapGroup key fun g => { g with park := some (.call kd slot) })
  | _ => .ok s

/-- R54: the group whose SCALL cannot go on faults. -/
def State.callFault (s : State) (key : Nat) (cause : BitVec 8) (addr : Word) : State :=
  { s with actor := key }.raiseFault cause 0 addr 32

/-- What posting comes to as a machine event. -/
def State.posted (s : State) (key : Nat) : Except AgentStop State → Res
  | .ok s' => .next s'
  | .error .wait => .fault .notEnabled
  | .error (.fail c a) => .next (s.callFault key c a)

/-- R54: the consumer word could not be read. -/
def State.consumerFails (s : State) (part key : Nat) : State :=
  (s.partErr part 7).callFault key causeHostAbort (BitVec.ofNat 64 (s.part part).consumer)

/-- R54: free slots of a ring of `2 ^ log` records. -/
def State.ringRoom (s : State) (part log : Nat) : Nat :=
  let p := s.part part
  let cons := BitVec.ofNat 32 (leNat (s.bytesAt (hostLoc p.consumer) 4))
  if p.page.cqProd - cons = BitVec.ofNat 32 (2 ^ log) then 0 else 2 ^ log - (p.page.cqProd - cons).toNat % 2 ^ log

/-- A partition whose SCALLs are served. -/
def State.serves (s : State) (part : Nat) : Bool := (s.part part).state == .run && (s.part part).halt.isNone

/-- R341 step 3: the stores issued before the SCALL have been acknowledged. -/
def Group.callReady (g : Group) : Bool :=
  match g.park with
  | some (.scall _ _ _ _ after) => g.st.all fun f => decide (after ≤ f.seq)
  | _ => false

/-- CQ_CONS_READ (R54): the read of the consumer word for a group's SCALL completes, or fails. -/
def execCqConsRead (group : Nat) (ok : Bool) (s : State) : Res :=
  let g := s.group group
  let part := g.part
  let p := s.part part
  match p.ringLog with
  | none => .fault .notEnabled
  | some log =>
    if !s.serves part || !g.callReady || p.calls.contains group ||
        !((s.team g.team).phase == TeamPhase.saved || s.present group) then .fault .notEnabled
    else if !ok || !s.pkg.hostUp then .next (s.consumerFails part group)
    else if s.ringRoom part log = 0 then
      .next ((s.setPart part { p with calls := p.calls ++ [group], callNs := if p.calls.isEmpty then s.nsNow.toNat else p.callNs }).partErr part 6)
    else if !p.calls.isEmpty then .next (s.setPart part { p with calls := p.calls ++ [group] })
    else s.posted group (s.postCall part group log)

/-- R54: the waiting SCALLs, oldest first, take the free slots; the first argument bounds them. DESIGN CHOICE: a reread that
finds the ring full sets CQ_FULL no second time (log 105). -/
def State.postWaiting (part log : Nat) : Nat → State → Res
  | 0, s => .next s
  | n + 1, s =>
    let p := s.part part
    match p.calls with
    | [] => .next s
    | k :: ks =>
      if s.ringRoom part log = 0 then .next s
      else
        let s := s.setPart part { p with calls := ks }
        match s.postCall part k log with
        | .ok s' => State.postWaiting part log n s'
        | .error .wait => .fault .notEnabled
        | .error (.fail c a) => .next (s.callFault k c a)

/-- CQ_REREAD (R54): one microsecond after a read that found the ring full, the consumer word is read again. -/
def execCqReread (part : Nat) (ok : Bool) (s : State) : Res :=
  let p := s.part part
  match p.ringLog, p.calls with
  | some log, k :: ks =>
    if !s.serves part || s.nsNow.toNat < p.callNs + 1000 then .fault .notEnabled
    else if !ok || !s.pkg.hostUp then .next ((s.setPart part { p with calls := ks }).consumerFails part k)
    else State.postWaiting part log (ks.length + 1) (s.setPart part { p with callNs := s.nsNow.toNat })
  | _, _ => .fault .notEnabled

/-! ## The end of a call -/

/-- R55, R341 step 5: a group whose record stands in a slot reads RESULT and resumes. -/
def State.deliverCall (s : State) (key : Nat) (kd : BitVec 6) (slot : Nat) : State :=
  let loc := (s.part (s.group key).part).callLoc slot + 0x18
  if !s.pkg.hostUp then s.callFault key causeHostAbort (BitVec.ofNat 64 (loc - hostBase))
  else s.mapGroup key fun g => ({ g with
    park := none, inCall := false, cpc := if g.inCall then g.cpc + 4 else g.cpc }.setK kd (s.wordAt loc)).stepped true

/-- R56: a group parked by SCALL resumes if its wake word is at zero or below. -/
def State.resumeCall (s : State) (key : Nat) : State :=
  let g := s.group key
  match g.park with
  | some (.call kd slot) =>
    match s.agentWord g.part ((s.part g.part).wakeAddr slot) with
    | .ok (w, s') => if 0 < w.toInt then s else s'.deliverCall key kd slot
    | .error _ => s
  | _ => s

/-- R110, R431: a held or lost wake makes a WAITM group read its word again. -/
def Group.wake (g : Group) : Group :=
  match g.park with
  | some (.waitm d a n w _ since) => { g with park := some (.waitm d a n w true since) }
  | _ => g

/-- R56, R282 step 4: a killed group leaves the call queue, its wake word is 0, and it is parked no more; it stays so while
the word's page is to be migrated. -/
def State.clearCall (s : State) (key : Nat) : State :=
  let g := s.group key
  let p := s.part g.part
  let s := s.setPart g.part { p with calls := p.calls.filter (· != key) }
  let free := fun (s : State) => s.mapGroup key fun g => { g with park := none, inCall := false }
  match g.park with
  | some (.call _ slot) =>
    match s.agentSet g.part (p.wakeAddr slot) 0 with
    | .ok s => free s
    | .error .wait => s
    | .error (.fail _ _) => free s
  | _ => free s

end Sys2Proof.Machine
end

