-- ==== Sys2Proof/Machine/Slots.lean ====
section
/-! DEFINITION. Sys2Proof/Machine/Slots.lean: accumulator slots with their sidecars and status words (R199, R206, R208,
R209), and the instructions that act on one in a single step: TLD, TST (R415) and TSTAT (R361). -/

namespace Sys2Proof.Machine

/-- R208: a status word's reset value. -/
def statusReset : Word := 0xFC0000

/-- An element of a slot. -/
def Slot.elem (x : Slot) (e : Nat) : Elem :=
  match SMap.find? x.elems e with
  | some v => v
  | none =>
    match x.base with
    | .free ep => ⟨Config.freeElemBits ep e, Config.freeElemTag ep e, Config.freeElemAbs ep e⟩
    | .zero t => ⟨0, t, 0⟩

/-- Write an element. -/
def Slot.setElem (x : Slot) (e : Nat) (v : Elem) : Slot := { x with elems := x.elems.put e v }

/-- A slot of a team. -/
def Team.slot (t : Team) (z : Nat) : Slot := t.slots.get {} z

/-- Replace a slot of a team. -/
def Team.setSlot (t : Team) (z : Nat) (x : Slot) : Team := { t with slots := t.slots.put z x }

/-- Change a slot of a team. -/
def State.mapSlot (s : State) (team z : Nat) (f : Slot → Slot) : State :=
  let t := s.team team
  s.setTeam team (t.setSlot z (f (t.slot z)))

/-- R206: the abs-sum byte of a magnitude. -/
def absByte (v : FVal) : Byte :=
  if v.isSpecial then 255
  else if v.isZero then 0
  else BitVec.ofNat 8 ((max 1 (min 255 (v.E + 128))).toNat)

/-- R206: an element loaded with a value of FP32, with tag `t`. -/
def loadedElem (bits : Word32) (t : Tag) : Elem := ⟨bits, t, absByte (fp32.decode bits.toNat)⟩

/-- R199: a read of slot `z` that faults with REGION_LIVEIN. -/
def Team.unwritten (t : Team) (z : Nat) : Bool := t.openRegion.isSome && !(t.slot z).written

/-- R199: REGION_LIVEIN, unless the slot may be read. -/
def State.readsSlot (s : State) (z : Nat) (r : Res) : Res :=
  if s.t.unwritten z then s.fault causeRegionLivein 0 (BitVec.ofNat 64 z) else r

/-- R361: TZERO of a slot; its written bit is set when the TZERO is accepted (R199). -/
def Slot.zeroed (x : Slot) : Slot := { base := .zero 24, elems := [], written := x.written, status := statusReset }

/-! ## TLD and TST -/

/-- Slot of a fragment word. -/
def fragSlot (f : LaneFields) : Nat := (f.imm.extractLsb' 0 5).toNat

/-- Strip of a fragment word. -/
def fragStrip (f : LaneFields) : Nat := (f.imm.extractLsb' 8 4).toNat

/-- R415: the element that lane `i` holds in register base + `n`. -/
def fragElem (strip i n : Nat) : Nat := (4 * strip + n / 2) * 64 + 2 * i + n % 2

/-- R415: TLD. -/
def execTld (f : LaneFields) (s : State) : Res :=
  let z := fragSlot f
  if !s.fileOk f || s.t.type.zslots ≤ z then s.illegal
  else
    s.readsSlot z <|
      let x := s.t.slot z
      s.laneDone <| foldState (lanesOf (s.g.active f.guard)) s.g fun i g =>
        foldState (List.range 8) g fun n g =>
          let e := x.elem (fragElem (fragStrip f) i n)
          g.setReg f.dst n i ⟨e.bits, e.tag⟩

/-- R415: TST. -/
def execTst (f : LaneFields) (s : State) : Res :=
  let z := fragSlot f
  if !s.fileOk f || s.t.type.zslots ≤ z then s.illegal
  else
    let g := s.g
    let x := foldState (lanesOf (g.active f.guard &&& ~~~g.helpers)) (s.t.slot z) fun i x =>
      foldState (List.range 8) x fun n x =>
        let v := g.reg f.a n i
        x.setElem (fragElem (fragStrip f) i n) (loadedElem v.bits (if 24 < v.tag.toNat then 24 else v.tag))
    (s.setT (s.t.setSlot z { x with written := true })).laneDone g

/-! ## TSTAT -/

/-- R359, R360: the accumulator slots a command names. -/
def Cmd.pair (c : Cmd) : Bool :=
  match c.kind with
  | .mma => (c.rung.extractLsb' 16 3).toNat == 1
  | .tload => field (dword c.desc 1) 32 4 == 1
  | .tstore => field (dword c.desc 1) 32 4 == 1
  | _ => false

/-- The command is in the order of slot `z`. -/
def Cmd.names (c : Cmd) (z : Nat) : Bool := c.kind.onMatrix && (c.slot == z || (c.pair && c.slot + 1 == z))

/-- R349: a command of the team on slot `z`, accepted before number `id`, has not completed. -/
def State.slotBusy (s : State) (team z id : Nat) : Bool :=
  (s.liveCommands team).any fun c => c.names z && decide (c.id < id)

/-- R349, R361: TSTAT. -/
def execTstat (d : BitVec 6) (c : BitVec 1) (z : BitVec 5) (s : State) : Res :=
  let n := z.toNat
  if s.t.type.zslots ≤ n then s.illegal
  else
    s.unlessHeld <|
      if s.slotBusy s.g.team n s.nextCmd then s.ctlWait .engineFull
      else
        s.readsSlot n <|
          let w := (s.t.slot n).status
          let s := if c = 1 then s.mapSlot s.g.team n fun x => { x with status := statusReset } else s
          s.ctlDone (s.g.setK d w)

end Sys2Proof.Machine
end

