-- ==== Sys2Proof/Machine/Engines.lean ====
section
/-! DEFINITION. Sys2Proof/Machine/Engines.lean: engine commands (R281, R345-R360): element formats and their packing, the
descriptors, the checks of acceptance in their order, and the control instructions that hand a command over. -/

namespace Sys2Proof.Machine

/-! ## Elements in memory (R259, R260, R352) -/

/-- Bits of an element of a format code; a plane of NP has one. -/
def elemBits (code : Nat) : Nat :=
  match code with
  | 0x0 => 32
  | 0x1 => 64
  | 0x2 => 16
  | 0x3 => 16
  | 0x6 => 6
  | 0x7 => 6
  | 0x8 => 4
  | 0x9 => 1
  | 0xB => 16
  | 0xC => 32
  | _ => 8

/-- R352: the alignment of an element's address. -/
def elemAlign (code : Nat) : Nat := if elemBits code < 16 then 1 else elemBits code / 8

/-- R259, R352: bytes of `n` elements, of one plane for NP. -/
def rowBytes (code n : Nat) : Nat :=
  match code with
  | 0x6 => 3 * ((n + 3) / 4)
  | 0x7 => 3 * ((n + 3) / 4)
  | 0x8 => (n + 1) / 2
  | 0x9 => n / 8
  | _ => n * (elemBits code / 8)

/-- The raw codes of `n` packed elements. -/
def unpackElems (code n : Nat) (bs : List Byte) : List Nat :=
  let x := leNat bs
  let w := elemBits code
  (List.range n).map fun i => x >>> (w * i) % 2 ^ w

/-- Packed bytes of some raw codes. -/
def packElems (code : Nat) (xs : List Nat) : List Byte :=
  let w := elemBits code
  leBytes (rowBytes code xs.length) ((xs.zipIdx).foldl (fun a x => a + (x.1 % 2 ^ w) <<< (w * x.2)) 0)

/-- R260: the eight bits of NP elements from the planes that were read, plane 0 first; bits not read are 0. -/
def joinPlanes (planes : List (List Nat)) : List Nat :=
  match planes with
  | [] => []
  | p :: _ => (List.range p.length).map fun i =>
      (planes.zipIdx).foldl (fun d q => d + (q.1.getD i 0) <<< (7 - q.2)) 0

/-- R260: plane `j` of NP elements. -/
def planeOf (xs : List Nat) (j : Nat) : List Nat := xs.map fun d => d >>> (7 - j) % 2

/-- R251, R252, R257, R261: the exact value of an element: `sp` planes for NP, scale `X` where there is one. -/
def elemValue (code sp raw : Nat) (X : Option Nat) : FVal :=
  let v := if code ≤ 8 then (fmtOf code).decode raw
    else if code = 9 then npValue raw sp
    else if code ≤ 0xD then
      ofInt (if code = 0xD then (raw : Int) else (BitVec.ofNat (elemBits code) raw).toInt) 0
    else ofE8m0 raw
  match X with
  | none => v
  | some x => if x = 0xFF then .nan else v.scale ((x : Int) - 127)

/-- R353: an element converted alone, under DMODE. -/
def convertElem (code : Nat) (dmode : BitVec 3) (x : FVal) : Nat :=
  if code ≤ 8 then (fmtOf code).encode ((fmtOf code).rnd ⟨false, dmode.getLsbD 1, dmode.getLsbD 2⟩ 0 x).val
  else if code ≤ 0xD then
    (BitVec.ofInt (elemBits code) (toIntSat 0 (intRange code).1 (intRange code).2 x)).toNat
  else toE8m0 x

/-! ## Footprints -/

/-- Rows of bytes that a command accesses. -/
structure Foot where
  /-- First byte of row 0. -/
  base : Word
  /-- Rows. -/
  rows : Nat
  /-- Bytes between rows. -/
  stride : Nat
  /-- Bytes of a row. -/
  n : Nat
  /-- It must lie in a window (R358). -/
  window : Bool := false
  deriving DecidableEq, Repr

/-- First address after the allocation that a window address reaches. -/
def State.windowEnd (s : State) (a : Word) : Target → Nat
  | .spad k off => a.toNat - off + (s.team k).type.spad * 1024
  | _ => a.toNat

/-- R149: the first address outside the bounds among the rows of a footprint from row `r` on, whose rows may lie in the
allocations of several members of a cohort; the first argument bounds the allocations. -/
def State.footRows (s : State) (team : Nat) (f : Foot) : Nat → Nat → Option Word
  | 0, _ => none
  | fuel + 1, r =>
    let x := f.base.toNat + r * f.stride
    match s.window team (BitVec.ofNat 64 x) with
    | some (some t) =>
      let last := s.windowEnd (BitVec.ofNat 64 x) t
      if last - x < f.n then some (BitVec.ofNat 64 last)
      else if f.stride = 0 then none
      else
        let r' := r + (last - x - f.n) / f.stride + 1
        if f.rows ≤ r' then none else s.footRows team f fuel r'
    | _ => some (BitVec.ofNat 64 x)

/-- R149, R345 step 6: the first address of a window footprint outside its bounds. -/
def State.footFail (s : State) (team : Nat) (f : Foot) : Option Word :=
  if f.rows = 0 || f.n = 0 then none
  else if f.base.toNat < 2 ^ 57 then (if f.window then some f.base else none)
  else s.footRows team f 8 0

/-- R352: rows of `n` bytes at two bases with one stride meet: some row of the first starts `d + k * stride` bytes below
a row of the second. -/
def rowsMeet (d rows stride n : Nat) : Bool :=
  if rows = 1 then decide (d < n)
  else
    let k := d / stride
    (decide (d - k * stride < n) && decide (k < rows)) || (decide ((k + 1) * stride - d < n) && decide (k + 1 < rows))

/-- R352: a row of `n` bytes meets the `len` bytes at `x`. -/
def rowsHit (base rows stride n x len : Nat) : Bool :=
  let r := if x < base + n || stride = 0 then 0 else (x - base - n) / stride + 1
  decide (r < rows) && decide (base + r * stride < x + len) && decide (x < base + r * stride + n)

/-- R352: some destination byte would be written twice. -/
def overlaps (dst rows stride n planes pstride scale scaleLen : Nat) : Bool :=
  (1 < rows && stride < n) ||
  (List.range planes).any (fun p => (List.range p).any fun q => rowsMeet ((p - q) * pstride) rows stride n) ||
  (0 < scaleLen && (List.range planes).any fun p => rowsHit (dst + p * pstride) rows stride n scale scaleLen)

/-! ## The copy descriptor (R351, R352) -/

/-- A copy descriptor with its formats resolved. -/
structure CopyPlan where
  /-- SRC. -/
  src : Word
  /-- DST. -/
  dst : Word
  /-- SSTRIDE. -/
  sst : Nat
  /-- DSTRIDE. -/
  dstr : Nat
  /-- SPSTRIDE. -/
  spst : Nat
  /-- DPSTRIDE. -/
  dpst : Nat
  /-- ROWS. -/
  rows : Nat
  /-- COLS. -/
  cols : Nat
  /-- Source format. -/
  sf : Nat
  /-- Destination format. -/
  df : Nat
  /-- Planes read; 0 unless NP. -/
  sp : Nat
  /-- Planes written; 0 unless NP. -/
  dp : Nat
  /-- SSCALE. -/
  ssc : Word
  /-- DSCALE. -/
  dsc : Word
  deriving DecidableEq, Repr

/-- R197, R352: a format code and its plane count; `all` says that a rung's NP writes all planes. -/
def resolveCode (code planes : Nat) (rung : Option Word32) (second all : Bool) : Option (Nat × Nat) :=
  if code = 0xF then
    match rung with
    | none => none
    | some e =>
      let (fa, fb, pa, pb, _, _) := rungFields e
      let f := if second then fb else fa
      if planes ≠ 0 then none
      else some (f, if f = 9 then (if all then 8 else if second then pb else pa) else 0)
  else if code = 9 then (if 1 ≤ planes ∧ planes ≤ 8 then some (9, planes) else none)
  else if planes = 0 then some (code, 0) else none

/-- R352: a scale array fits its format: needed by NP, allowed for MX. -/
def scaleOk (f : Nat) (scale : Word) : Bool := if f = 9 then scale != 0 else scale == 0 || (4 ≤ f && f ≤ 8)

/-- R351, R352: the plan of a copy descriptor; `rqt` for RQT, whose destination is transposed (R355). -/
def copyPlan (d : List Word) (rung : Option Word32) (rqt collective : Bool) : Option CopyPlan :=
  let w4 := dword d 4
  let w7 := dword d 7
  let rows := field w4 48 16
  let cols := field w4 16 24
  let second := bit w4 40
  match resolveCode (field w4 0 4) (field w4 8 4) rung second false,
      resolveCode (field w4 4 4) (field w4 12 4) rung second true with
  | some (sf, sp), some (df, dp) =>
    let p : CopyPlan := { src := dword d 0, dst := dword d 1, sst := field (dword d 2) 32 32, dstr := field (dword d 2) 0 32
                          spst := field (dword d 3) 32 32, dpst := field (dword d 3) 0 32, rows, cols, sf, df, sp, dp
                          ssc := dword d 5, dsc := dword d 6 }
    let shape := fun (c : Nat) => c == 0xF || (4 ≤ c && c ≤ 9)
    let geometry := if rqt then
        shape (field w4 0 4) && shape (field w4 4 4) && p.ssc != 0 && p.dsc != 0 && rows % 32 == 0 && cols % 32 == 0 &&
        rows ≤ 4096 && cols ≤ 4096
      else (p.ssc == 0 && p.dsc == 0) || cols % 32 == 0
    let slices := field w7 0 8
    let dr := if rqt then cols else rows
    let dn := rowBytes df (if rqt then rows else cols)
    if field w4 41 7 = 0 ∧ field w7 32 32 = 0 ∧ field w7 8 8 = 0 ∧ rows ≠ 0 ∧ cols ≠ 0 ∧
        (p.spst = 0 ∨ sf = 9) ∧ (p.dpst = 0 ∨ df = 9) ∧ scaleOk sf p.ssc ∧ scaleOk df p.dsc ∧ geometry ∧
        (if collective then 1 ≤ slices ∧ slices ≤ 32 else w7 = 0) ∧
        ¬ overlaps p.dst.toNat dr p.dstr dn (max 1 dp) p.dpst p.dsc.toNat (if p.dsc = 0 then 0 else rows * cols / 32)
    then some p else none
  | _, _ => none

/-- R345 steps 6 and 7: footprints of a copy, in the order of the descriptor: source, its scales, destination, its
scales. -/
def CopyPlan.foots (p : CopyPlan) (rqt : Bool) : List Foot :=
  let scales := p.rows * p.cols / 32
  let dr := if rqt then p.cols else p.rows
  let dn := rowBytes p.df (if rqt then p.rows else p.cols)
  (List.range (max 1 p.sp)).map (fun j =>
    { base := p.src + BitVec.ofNat 64 (j * p.spst), rows := p.rows, stride := p.sst, n := rowBytes p.sf p.cols }) ++
  (if p.ssc = 0 then [] else [{ base := p.ssc, rows := 1, stride := 0, n := scales }]) ++
  (List.range (max 1 p.dp)).map (fun j =>
    { base := p.dst + BitVec.ofNat 64 (j * p.dpst), rows := dr, stride := p.dstr, n := dn }) ++
  (if p.dsc = 0 then [] else [{ base := p.dsc, rows := 1, stride := 0, n := scales }])

/-! ## The gather descriptor (R356) -/

/-- A gather descriptor. -/
structure GatherPlan where
  /-- TABLE. -/
  table : Word
  /-- DST. -/
  dst : Word
  /-- INDEX. -/
  index : Word
  /-- TSTRIDE. -/
  tst : Nat
  /-- DSTRIDE. -/
  dstr : Nat
  /-- COUNT. -/
  count : Nat
  /-- Bytes of an index. -/
  idx : Nat
  /-- SFMT. -/
  sf : Nat
  /-- DFMT. -/
  df : Nat
  /-- LIMIT. -/
  limit : Nat
  /-- ROWELEM. -/
  rowElem : Nat
  deriving DecidableEq, Repr

/-- R356: the plan of a gather descriptor. -/
def gatherPlan (d : List Word) : Option GatherPlan :=
  let w4 := dword d 4
  let p : GatherPlan := { table := dword d 0, dst := dword d 1, index := dword d 2, tst := field (dword d 3) 32 32
                          dstr := field (dword d 3) 0 32, count := field w4 32 32, idx := if bit w4 12 then 8 else 4
                          sf := field w4 0 4, df := field w4 4 4, limit := (dword d 5).toNat
                          rowElem := field (dword d 6) 0 24 }
  let okFmt := fun (c : Nat) => c ≤ 3 || (0xA ≤ c && c ≤ 0xD)
  if field w4 13 19 = 0 ∧ field w4 8 4 = 0 ∧ field (dword d 6) 24 40 = 0 ∧ dword d 7 = 0 ∧ okFmt p.sf ∧ okFmt p.df ∧
      1 ≤ p.count ∧ p.count ≤ 2 ^ 20 ∧ 1 ≤ p.rowElem
  then some p else none

/-- Footprints of a gather: table, destination, indices. -/
def GatherPlan.foots (p : GatherPlan) : List Foot :=
  [{ base := p.table, rows := p.limit, stride := p.tst, n := p.rowElem * elemAlign p.sf },
    { base := p.dst, rows := p.count, stride := p.dstr, n := p.rowElem * elemAlign p.df },
    { base := p.index, rows := 1, stride := 0, n := p.count * p.idx }]

/-! ## The operand descriptor (R357, R358) -/

/-- K of a class. -/
def classK (c : Nat) : Nat := if c = 0 then 64 else if c = 1 then 32 else if c = 2 then 8 else 4

/-- R358: the whole shape: the descriptor's own, or the current rung entry. -/
def matShape (d : List Word) (rung : Option Word32) : Option Word32 :=
  let sh := BitVec.ofNat 32 (field (dword d 6) 0 32)
  let (fa, fb, _, _, _, _) := rungFields sh
  if fa = 0xF then (if sh = 0xFF then rung else none)
  else if fb = 0xF then none
  else some sh

/-- R357, R358: the descriptor's fields, with shape `e`, for slot `z` of `zslots`.  A stride that is misaligned to its
element meets step 7 of R345 (log 77). -/
def matOk (d : List Word) (e : Word32) (z zslots : Nat) : Bool :=
  let (fa, fb, _, _, acc, _) := rungFields e
  let c := matClass fa
  let stride := fun (f st : Nat) => rowBytes f (classK c) ≤ st && (st % 8 == 0 || st % elemAlign f != 0)
  let plane := fun (f st : Nat) => if f == 9 then rowBytes f (classK c) ≤ st && st % 8 == 0 else st == 0
  let scale := fun (f : Nat) (x : Word) => if c = 0 then f != 9 || x != 0 else x == 0
  field (dword d 6) 32 32 == 0 && dword d 7 == 0 && rungOk e && scale fa (dword d 2) && scale fb (dword d 3) &&
  stride fa (field (dword d 4) 0 32) && stride fb (field (dword d 4) 32 32) &&
  plane fa (field (dword d 5) 0 32) && plane fb (field (dword d 5) 32 32) &&
  (acc != 1 || (z % 2 == 0 && decide (z + 1 < zslots)))

/-- Footprints of the operands and their scales. -/
def matFoots (d : List Word) (e : Word32) : List Foot :=
  let (fa, fb, pa, pb, _, _) := rungFields e
  let k := classK (matClass fa)
  let one := fun (f p : Nat) (base : Word) (st pst : Nat) =>
    (List.range (max 1 p)).map fun j =>
      ({ base := base + BitVec.ofNat 64 (j * pst), rows := 64, stride := st, n := rowBytes f k, window := true } : Foot)
  let scale := fun (x : Word) =>
    if x = 0 then [] else [({ base := x, rows := 1, stride := 0, n := 64 * k / 32, window := true } : Foot)]
  one fa pa (dword d 0) (field (dword d 4) 0 32) (field (dword d 5) 0 32) ++
  one fb pb (dword d 1) (field (dword d 4) 32 32) (field (dword d 5) 32 32) ++ scale (dword d 2) ++ scale (dword d 3)

/-! ## The tile descriptor (R360) -/

/-- FMT of a tile descriptor. -/
def tileFmt (d : List Word) : Nat := field (dword d 1) 32 4

/-- STRIDE of a tile descriptor. -/
def tileStride (d : List Word) : Nat := field (dword d 1) 0 32

/-- R360: the descriptor's fields, for slot `z` of `zslots`; step 7 of R345 checks the stride's alignment (log 77). -/
def tileOk (d : List Word) (z zslots : Nat) : Bool :=
  let f := tileFmt d
  let n := elemAlign f
  field (dword d 1) 36 28 == 0 && ((List.range 6).all fun i => dword d (2 + i) == 0) && f ≤ 3 &&
  64 * n ≤ tileStride d && (f != 1 || (z % 2 == 0 && decide (z + 1 < zslots)))

/-! ## Acceptance (R345-R347) -/

/-- What step 4 makes of a descriptor, for the steps after it. -/
structure CmdSpec where
  /-- The rung entry that the command carries: the resolved shape for an MMA. -/
  shape : Word32 := 0
  /-- Step 5: destinations that may not be system addresses in an open speculative region. -/
  dests : List Word := []
  /-- Step 5: slots that are read. -/
  reads : List Nat := []
  /-- Step 6. -/
  foots : List Foot := []
  /-- Step 7: addresses with the alignment they need, in order. -/
  aligns : List (Word × Nat) := []
  /-- TCOPY.C: COLLID and NSLICES. -/
  collective : Option (Nat × Nat) := none

/-- The control instruction of a command. -/
structure CmdWord where
  /-- Command. -/
  kind : CmdKind
  /-- ka. -/
  a : BitVec 6
  /-- Barrier. -/
  bar : BitVec 4 := 0
  /-- ACQ. -/
  acq : BitVec 1 := 0
  /-- REL. -/
  rel : BitVec 1 := 0
  /-- SCOPE. -/
  scope : BitVec 2 := 0
  /-- NB. -/
  nb : BitVec 1 := 1
  /-- Accumulator slot. -/
  slot : Nat := 0
  /-- TCOPY.C: the slice number. -/
  slice : Nat := 0

/-- R194, R197: the current rung entry. -/
def Team.rungEntry (t : Team) : Option Word32 := (t.openRegion.orElse fun _ => t.pending).map fun r => descRung r.desc r.rung

/-- R200, R345 step 5: a destination that translates to a system address. -/
def State.isSystemDest (s : State) (a : Word) : Bool :=
  match s.check s.g.team a 1 .write false with
  | .ok t _ _ _ => t.isSystem
  | _ => false

/-- R345: why a command is not accepted yet. -/
def State.engineFull (s : State) (w : CmdWord) : Bool :=
  let c := s.core s.t.core
  let live := fun (c : Cmd) => c.kind != .tzero && !c.arrived
  let full := if w.kind.onMatrix then decide (32 ≤ (c.matQ.filter live).length) else decide (64 ≤ (c.copyQ.filter live).length)
  full || decide (64 ≤ ((s.liveCommands s.g.team).filter (·.kind != .tzero)).length) ||
  (w.nb == 0 && (s.bar s.g.team w.bar.toNat).refs == 1023)

/-- R345 steps 5 to 8: the fault that a resolved command meets, with ADDR and INFO. -/
def State.cmdFault (s : State) (w : CmdWord) (addr : Word) (x : CmdSpec) : Option (BitVec 8 × Word × Word) :=
  if s.t.speculative && x.dests.any s.isSystemDest then some (causeRegionEffect, 0, 0)
  else
    match x.reads.find? s.t.unwritten with
    | some z => some (causeRegionLivein, 0, BitVec.ofNat 64 z)
    | none =>
      match x.foots.findSome? (s.footFail s.g.team) with
      | some a => some (causeCopyBounds, addr, a)
      | none =>
        match x.aligns.find? fun y => y.1.toNat % y.2 != 0 with
        | some y => some (causeMisaligned, y.1, 32)
        | none =>
          if w.nb = 1 then none
          else if !(s.bar s.g.team w.bar.toNat).valid then some (causeBarMisuse, 0, BitVec.ofNat 64 w.bar.toNat)
          else if s.pendingNames w.bar.toNat then some (causeBarBusy, 0, BitVec.ofNat 64 w.bar.toNat)
          else none

/-- The accepted slices of a collective of the team. -/
def State.slices (s : State) (team collid : Nat) : List Cmd :=
  (s.liveCommands team).filter fun c => c.kind == .tcopyC && c.collid == collid

/-- R354: a slice does not fit the slices accepted before it. -/
def State.sliceBad (s : State) (w : CmdWord) (collid n : Nat) : Bool :=
  decide (n ≤ w.slice) || (s.slices s.g.team collid).any fun c =>
    c.nslices != n || c.slice == w.slice || c.bar != (if w.nb = 1 then none else some w.bar.toNat) ||
    c.acq != (w.acq == 1) || c.rel != (w.rel == 1) || c.scope != w.scope

/-- R354: a fifth collective. -/
def State.tooManyCollectives (s : State) (collid : Nat) : Bool :=
  let ids := (((s.liveCommands s.g.team).filter (·.kind == .tcopyC)).map (·.collid)).eraseDups
  !ids.contains collid && decide (4 ≤ ids.length)

/-- R346, R347: the command joins its engine's queue. -/
def State.enqueueCmd (s : State) (w : CmdWord) (addr : Word) (d : List Word) (x : CmdSpec) : State :=
  let g := s.g
  let (collid, n) := x.collective.getD (0, 0)
  let first := (s.slices g.team collid).isEmpty || w.kind != .tcopyC
  let c : Cmd := { id := s.nextCmd, kind := w.kind, part := g.part, team := g.team, group := g.idx, gid := s.gid g, addr, desc := d
                   bar := if w.nb = 1 then none else some w.bar.toNat, acq := w.acq == 1, rel := w.rel == 1
                   scope := w.scope, slot := w.slot, region := s.regionId, rung := x.shape
                   dmode := g.fmt.extractLsb' 3 3, slice := w.slice, collid, nslices := n, holdsRef := first }
  let s := if w.nb = 0 && first then s.acceptBar g.team w.bar.toNat s.regionId else s
  let k := s.core s.t.core
  { s.setCore s.t.core (if w.kind.onMatrix then { k with matQ := k.matQ ++ [c] } else { k with copyQ := k.copyQ ++ [c] }) with
    nextCmd := s.nextCmd + 1 }

/-- R345: a command is accepted; `resolve` is step 4.  DESIGN CHOICE: the wait for a fifth COLLID of a slice (R354) comes behind
the faults of steps 5 to 8 (log 119). -/
def State.accept (s0 : State) (w : CmdWord) (resolve : List Word → Option CmdSpec) (after : State → State) : Res :=
  s0.unlessHeld <|
    match s0.g.acqHold with
    | some x => s0.ctlWait x
    | none =>
      if s0.engineFull w then s0.ctlWait .engineFull
      else if (w.nb = 0 && s0.t.type.bars ≤ w.bar.toNat) || (w.kind.onMatrix && s0.t.type.zslots ≤ w.slot) then s0.illegal
      else
        let addr := s0.g.getK w.a
        if addr.toNat % 64 != 0 then s0.fault causeMisaligned addr 32
        else
          s0.readDesc addr fun d s =>
            match resolve d with
            | none => s.fault causeIllegalOp addr 0
            | some x =>
              if x.collective.any fun y => s.sliceBad w y.1 y.2 then s.fault causeIllegalOp addr 0
              else
                match s.cmdFault w addr x with
                | some (c, a, i) => s.fault c a i
                | none =>
                  if x.collective.any fun y => s.tooManyCollectives y.1 then (s0.clearMid true).ctlWait .engineFull
                  else
                    let s := after (s.enqueueCmd w addr d x)
                    s.ctlDone s.g

/-- R345 step 7: what elements of format `f` ask of a base and its stride. -/
def aligned (f : Nat) (base : Word) (st : Nat) : List (Word × Nat) :=
  [(base, elemAlign f), (base + BitVec.ofNat 64 st, elemAlign f)]

/-- What a copy descriptor makes of a command. -/
def copySpec (rung : Option Word32) (rqt collective : Bool) (d : List Word) : Option CmdSpec :=
  (copyPlan d rung rqt collective).map fun (p : CopyPlan) =>
    { shape := rung.getD 0, dests := p.dst :: (if p.dsc = 0 then [] else [p.dsc]), foots := p.foots rqt
      aligns := aligned p.sf p.src p.sst ++ aligned p.df p.dst p.dstr
      collective := if collective then some (field (dword d 7) 16 16, field (dword d 7) 0 8) else none }

/-- R351-R353: TCOPY. -/
def execTcopy (a : BitVec 6) (b : BitVec 4) (q e : BitVec 1) (sc : BitVec 2) (n : BitVec 1) (s : State) : Res :=
  s.accept { kind := .tcopy, a, bar := b, acq := q, rel := e, scope := sc, nb := n }
    (copySpec s.t.rungEntry false false) id

/-- R354: TCOPY.C, whose slice number stands in a register (R295, R299). -/
def execTcopyC (a k : BitVec 6) (b : BitVec 4) (q e : BitVec 1) (sc : BitVec 2) (n : BitVec 1) (s : State) : Res :=
  s.accept { kind := .tcopyC, a, bar := b, acq := q, rel := e, scope := sc, nb := n, slice := (s.g.getK k).toNat }
    (copySpec s.t.rungEntry false true) id

/-- R355: RQT. -/
def execRqt (a : BitVec 6) (b : BitVec 4) (q e : BitVec 1) (sc : BitVec 2) (n : BitVec 1) (s : State) : Res :=
  s.accept { kind := .rqt, a, bar := b, acq := q, rel := e, scope := sc, nb := n }
    (copySpec s.t.rungEntry true false) id

/-- R356: TGATH. -/
def execTgath (a : BitVec 6) (b : BitVec 4) (q e : BitVec 1) (sc : BitVec 2) (n : BitVec 1) (s : State) : Res :=
  s.accept { kind := .tgath, a, bar := b, acq := q, rel := e, scope := sc, nb := n }
    (fun d => (gatherPlan d).map fun p =>
      { dests := [p.dst], foots := p.foots
        aligns := aligned p.sf p.table p.tst ++ aligned p.df p.dst p.dstr ++ [(p.index, p.idx)] }) id

/-- R357-R359: MMA. -/
def execMma (a : BitVec 6) (b : BitVec 4) (q e : BitVec 1) (sc : BitVec 2) (n : BitVec 1) (z : BitVec 5) (s : State) : Res :=
  s.accept { kind := .mma, a, bar := b, acq := q, rel := e, scope := sc, nb := n, slot := z.toNat }
    (fun d => do
      let sh ← matShape d s.t.rungEntry
      if matOk d sh z.toNat s.t.type.zslots then
        some { shape := sh, reads := [z.toNat], foots := matFoots d sh
               aligns := aligned (rungFields sh).1 (dword d 0) (field (dword d 4) 0 32) ++
                 aligned (rungFields sh).2.1 (dword d 1) (field (dword d 4) 32 32) }
      else none) id

/-- What a tile descriptor makes of a command. -/
def tileSpec (z zslots : Nat) (store : Bool) (d : List Word) : Option CmdSpec :=
  let n := elemAlign (tileFmt d)
  if tileOk d z zslots then
    some { dests := if store then [dword d 0] else []
           reads := if !store then [] else if tileFmt d = 1 then [z, z + 1] else [z]
           foots := [{ base := dword d 0, rows := 64, stride := tileStride d, n := 64 * n }]
           aligns := aligned (tileFmt d) (dword d 0) (tileStride d) }
  else none

/-- R199, R361: a slot, or both of a pair, counts as written. -/
def State.markWritten (s : State) (z : Nat) (pair : Bool) : State :=
  let one := fun (s : State) (z : Nat) => s.mapSlot s.g.team z fun x => { x with written := true }
  if pair then one (one s z) (z + 1) else one s z

/-- R360, R361: TLOAD, whose slots count as written from acceptance. -/
def execTload (a : BitVec 6) (b : BitVec 4) (q : BitVec 1) (sc : BitVec 2) (n : BitVec 1) (z : BitVec 5) (s : State) : Res :=
  s.accept { kind := .tload, a, bar := b, acq := q, scope := sc, nb := n, slot := z.toNat }
    (tileSpec z.toNat s.t.type.zslots false)
    fun s' =>
      let last := (s'.commandsOf s'.g.team).find? fun c => c.id + 1 == s'.nextCmd
      s'.markWritten z.toNat (last.any (·.pair))

/-- R360, R361: TSTORE. -/
def execTstore (a : BitVec 6) (b : BitVec 4) (e : BitVec 1) (sc : BitVec 2) (n : BitVec 1) (z : BitVec 5) (s : State) : Res :=
  s.accept { kind := .tstore, a, bar := b, rel := e, scope := sc, nb := n, slot := z.toNat }
    (tileSpec z.toNat s.t.type.zslots true) id

/-- R349, R361: TZERO takes effect at once, or after the earlier commands on its slot. -/
def execTzero (z : BitVec 5) (s : State) : Res :=
  let n := z.toNat
  if s.t.type.zslots ≤ n then s.illegal
  else
    s.unlessHeld <|
      if s.slotBusy s.g.team n s.nextCmd then
        let s := (s.enqueueCmd { kind := .tzero, a := 0, slot := n } 0 [] {}).markWritten n false
        s.ctlDone s.g
      else
        let s := (s.mapSlot s.g.team n Slot.zeroed).markWritten n false
        s.ctlDone s.g

end Sys2Proof.Machine
end

