-- ==== Sys2Proof/Machine/EngineAccess.lean ====
section
/-! DEFINITION. Sys2Proof/Machine/EngineAccess.lean: element accesses of the engines (R166, R182, R202, R203), the halt that
a failing element causes (R276), and the completion of a command (R141, R346, R354). -/

namespace Sys2Proof.Machine

/-- Why a block cannot run. -/
inductive EngineStop where
  /-- Another agent must act first: a translation (R20), a partner's version of a scratchpad line (R185). -/
  | wait
  /-- No version or shadow line is available (R204). -/
  | starve
  /-- A failing element (R166). -/
  | fail (cause : BitVec 8) (addr : Word)
  deriving DecidableEq, Repr

/-- The region a command carries (R347), if the team still has it. -/
def Team.regionOf (t : Team) (id : Option Nat) : Option Region :=
  (t.openRegion.toList ++ t.pending.toList).find? fun r => id == some r.id

/-- Put a region back in its place. -/
def Team.setRegion (t : Team) (r : Region) : Team :=
  { t with openRegion := t.openRegion.map fun x => if x.id = r.id then r else x
           pending := t.pending.map fun x => if x.id = r.id then r else x }

/-- Bytes of the 128-byte line from `a` on, at most `n`. -/
def lineChunk (a : Word) (n : Nat) : Nat := min n (128 - a.toNat % 128)

/-- Translate one element access of command `c`, which stays within a line. -/
def State.engineCheck (s : State) (c : Cmd) (a : Word) (need : Need) : Except EngineStop (Target × State) :=
  match s.check c.team a 1 need false with
  | .fault x => .error (.fail x a)
  | .busy => .error .wait
  | .ok t marks skip starve => .ok (t, (s.applyMarks marks skip starve).holdLine c.part t (need == .write))

/-- R167, R182: a location lies in the domain of a command's scope. -/
def Cmd.covers (c : Cmd) (loc : Nat) : Bool :=
  if spadBase ≤ loc then c.scope != 0 || (loc - spadBase) / 2 ^ 24 == c.team
  else if loc < hostBase then decide (2 ≤ c.scope.toNat)
  else c.scope == 3

/-- The byte of a location that a write replaced. -/
def Replaced.byte (x : Replaced) (loc : Nat) : Option Byte := if x.loc ≤ loc then x.bytes[loc - x.loc]? else none

/-- The group that issued a command. -/
def Cmd.issuer (c : Cmd) : Nat := c.team * 32 + c.group

/-- R182: one byte of an element read at its point: as the command's team sees it, or, where no ACQ covers it, also as it
was before a write of the issuing group or of one of its commands. -/
def State.elemByte (s : State) (c : Cmd) (loc : Nat) : Byte :=
  let now := s.viewByte c.team loc
  if c.acq && c.covers loc then now
  else
    let g := s.group c.issuer
    let old := (g.past.filter (·.1 == loc)).map (·.2) ++ g.behind.filterMap (·.byte loc)
    (now :: old).getD (Config.choice s.free (1024 + loc) % (old.length + 1)) now

/-- The byte at `a` of a part of the sources that was read ahead. -/
def Cmd.fetchedByte (c : Cmd) (a : Word) : Option Byte :=
  (c.fetched.find? fun x => x.1.toNat == a.toNat / 8 * 8).bind fun x => x.2[a.toNat % 8]?

/-- Bytes of an element read of the bytes from `a` on, at `loc`. -/
def State.elemBytes (s : State) (c : Cmd) (a : Word) (loc n : Nat) : List Byte :=
  (List.range n).map fun i => (c.fetchedByte (a + BitVec.ofNat 64 i)).getD (s.elemByte c (loc + i))

/-- Read `n` bytes from `a` on as the command's team sees them, another team's version of a scratchpad line as it was
before that team's region (R202); line by line; the first argument bounds the lines. -/
def State.engineRead (c : Cmd) : Nat → State → Word → Nat → Except EngineStop (List Byte × State)
  | 0, s, _, _ => .ok ([], s)
  | fuel + 1, s, a, n =>
    if n = 0 then .ok ([], s)
    else
      match s.engineCheck c a .read with
      | .error e => .error e
      | .ok (t, s) =>
        let k := lineChunk a n
        let bs := s.elemBytes c a t.loc k
        match State.engineRead c fuel s (a + BitVec.ofNat 64 k) (n - k) with
        | .error e => .error e
        | .ok (rest, s) => .ok (bs ++ rest, s)

/-- Lines that `n` bytes can touch. -/
def lineFuel (n : Nat) : Nat := n / 128 + 2

/-- Read `n` bytes from `a` on. -/
def State.engineBytes (s : State) (c : Cmd) (a : Word) (n : Nat) : Except EngineStop (List Byte × State) :=
  s.engineRead c (lineFuel n) a n

/-- One write of an engine. -/
abbrev EngineWrite := Word × List Byte

/-- A translated part of a write: its address, location and bytes. -/
abbrev EnginePart := Word × Nat × List Byte

/-- Translate the lines of one write. -/
def State.engineTargets (c : Cmd) (spec : Bool) :
    Nat → State → Word → List Byte → Except EngineStop (List EnginePart × State)
  | 0, s, _, _ => .ok ([], s)
  | fuel + 1, s, a, bs =>
    if bs.isEmpty then .ok ([], s)
    else
      match s.engineCheck c a .write with
      | .error e => .error e
      | .ok (t, s) =>
        let k := lineChunk a bs.length
        if spec && t.isSystem then .error (.fail causeRegionEffect 0)
        else if t.isWindow && s.spadHeld c.team t.loc then .error .wait
        else
          match State.engineTargets c spec fuel s (a + BitVec.ofNat 64 k) (bs.drop k) with
          | .error e => .error e
          | .ok (rest, s) => .ok ((a, t.loc, bs.take k) :: rest, s)

/-- Translate all the writes of a block. -/
def State.engineTranslate (c : Cmd) (spec : Bool) : State → List EngineWrite →
    Except EngineStop (List EnginePart × State)
  | s, [] => .ok ([], s)
  | s, w :: ws =>
    match State.engineTargets c spec (lineFuel w.2.length) s w.1 w.2 with
    | .error e => .error e
    | .ok (xs, s) =>
      match State.engineTranslate c spec s ws with
      | .error e => .error e
      | .ok (ys, s) => .ok (xs ++ ys, s)

/-- R182: remember the bytes that a write of a command replaces. -/
def State.keepBehind (s : State) (c : Cmd) (loc n : Nat) : State :=
  s.mapGroup c.issuer fun g => { g with behind := { cmd := c.id, loc, bytes := s.viewBytes c.team loc n } :: g.behind }

/-- Perform one translated write: a version of the command's speculative region, or a committed write. -/
def State.enginePut (c : Cmd) (s : State) (loc : Nat) (bs : List Byte) : Except EngineStop State :=
  let t := s.team c.team
  let s := s.keepBehind c loc bs.length
  match (t.regionOf c.region).filter (·.spec) with
  | some r =>
    if s.lineRoom c.team r loc then
      .ok ((s.setTeam c.team (t.setRegion { r with writes := overlayWrite r.writes loc bs })).wakeVersion c.team loc)
    else .error .starve
  | none => .ok (s.commitBytes loc bs)

/-- Perform the translated writes of a block. -/
def State.enginePutAll (c : Cmd) : State → List (Nat × List Byte) → Except EngineStop State
  | s, [] => .ok s
  | s, x :: xs =>
    match s.enginePut c x.1 x.2 with
    | .error e => .error e
    | .ok s => State.enginePutAll c s xs


/-! ## Queues, faults and completion -/

/-- The commands of an engine. -/
def Core.queue (c : Core) (matrix : Bool) : List Cmd := if matrix then c.matQ else c.copyQ

/-- Replace the commands of an engine. -/
def Core.setQueue (c : Core) (matrix : Bool) (q : List Cmd) : Core := if matrix then { c with matQ := q } else { c with copyQ := q }

/-- Change every command of an engine. -/
def State.mapQueue (s : State) (core : Nat) (matrix : Bool) (f : List Cmd → List Cmd) : State :=
  let c := s.core core
  s.setCore core (c.setQueue matrix (f (c.queue matrix)))

/-- Change command `id`. -/
def State.mapCmd (s : State) (core : Nat) (matrix : Bool) (id : Nat) (f : Cmd → Cmd) : State :=
  s.mapQueue core matrix fun q => q.map fun x => if x.id = id then f x else x

/-- R182: the aligned parts, of at most eight bytes, of a translated write of block `b`; the first argument bounds them. -/
def heldParts (b : Nat) : Nat → Word → Nat → List Byte → List HeldWrite
  | 0, _, _, _ => []
  | fuel + 1, addr, loc, bs =>
    if bs.isEmpty then []
    else
      let k := 8 - loc % 8
      { block := b, addr, loc, bytes := bs.take k } :: heldParts b fuel (addr + BitVec.ofNat 64 k) (loc + k) (bs.drop k)

/-- R166, R182: the writes of a block are all translated before any is performed; where the turn holds them, each part
waits for a point of its own. -/
def State.engineWrite (s : State) (c : Cmd) (ws : List EngineWrite) : Except EngineStop State :=
  let spec := ((s.team c.team).regionOf c.region).any (·.spec)
  match State.engineTranslate c spec s ws with
  | .error e => .error e
  | .ok (xs, s) =>
    if s.limit = some 0 then
      let parts := xs.flatMap fun x => heldParts c.done (x.2.2.length + 1) x.1 x.2.1 x.2.2
      .ok (s.mapCmd (s.team c.team).core c.kind.onMatrix c.id fun x => { x with held := x.held ++ parts })
    else State.enginePutAll c s (xs.map (·.2))

/-- R161: where a write that a command held goes at its point, translated again, with the state after that; nothing while
its page is to be migrated.  A translation that fails by then, or that leads from device to host memory or back, stays as
the block found it (log 53). -/
def State.heldTarget (s : State) (c : Cmd) (h : HeldWrite) : Option (Nat × State) :=
  match s.engineCheck c h.addr .write with
  | .ok (t, s') => some (if t.isSystem == (decide (hostBase ≤ h.loc) && decide (h.loc < spadBase)) then (t.loc, s') else (h.loc, s))
  | .error .wait => none
  | .error _ => some (h.loc, s)

/-- R161, R182: a held write is performed at its point, but for the bytes that `skip` selects by their places in it. -/
def State.heldPut (s : State) (c : Cmd) (h : HeldWrite) (skip : Nat → Bool) : Except EngineStop State :=
  match s.heldTarget c h with
  | none => .error .wait
  | some (loc, s) =>
    if (List.range h.bytes.length).any skip then
      State.enginePutAll c s ((h.bytes.zipIdx.filter fun x => !skip x.2).map fun x => (loc + x.2, [x.1]))
    else s.enginePut c loc h.bytes

/-- The writes that a command held are performed in their order. -/
def State.heldPutAll (c : Cmd) : State → List HeldWrite → Except EngineStop State
  | s, [] => .ok s
  | s, h :: hs =>
    match s.heldPut c h fun _ => false with
    | .error e => .error e
    | .ok s => State.heldPutAll c s hs

/-- A command that stops performs a write it held where its block found it, while its page is to be migrated. -/
def State.settleWrite (s : State) (c : Cmd) (h : HeldWrite) : State :=
  match s.heldPut c h fun _ => false with
  | .ok s => s
  | .error _ => (s.enginePut c h.loc h.bytes).toOption.getD s

/-- R182: a write that REL orders before the arrival is still to be performed. -/
def Cmd.owes (c : Cmd) : Bool := c.rel && c.held.any fun h => c.covers h.loc

/-- R182, R281: the commands of an engine that `p` selects perform the writes they held, before they stop at a block
boundary; those that have arrived leave the engine. -/
def State.settleHeld (s0 : State) (core : Nat) (matrix : Bool) (p : Cmd → Bool) : State :=
  let s := s0.by core ((((s0.core core).queue matrix).filter p).foldl (fun s c => c.held.foldl (fun s h => s.settleWrite c h) s) s0)
  s.mapQueue core matrix fun q =>
    (q.filter fun c => !(p c && c.arrived)).map fun c => if p c then { c with held := [], fetched := [] } else c

/-- R276: the stop record of an engine command. -/
def State.engineRecord (s : State) (c : Cmd) (kind : Nat) (cause : BitVec 8) (addr info : Word) : StopRecord :=
  let src := if c.kind.onMatrix then 1 else 2
  { src, kind, gid := c.gid
    words := [word [at_ cause.toNat 56, at_ src 52, at_ kind 48, at_ c.gid 0], 0, 0, 0, addr, info, c.progress, s.nsNow] }

/-- R166, R274: a command halts its context and stops at a block boundary, with the writes it held performed (R281). -/
def State.engineFault (s : State) (core : Nat) (c : Cmd) (cause : BitVec 8) (addr info : Word) : State :=
  let s := s.settleHeld core c.kind.onMatrix (·.id == c.id)
  (s.raiseHalt c.part cause (s.engineRecord { c with held := [] } 0 cause addr info)).mapCmd core c.kind.onMatrix c.id
    fun x => { x with stopped := true }

/-- The slices of a collective that has not completed, or the command alone (R354). -/
def State.together (s : State) (core : Nat) (c : Cmd) : List Cmd :=
  if c.kind = .tcopyC then
    (s.core core).copyQ.filter fun x => x.kind == .tcopyC && x.team == c.team && x.collid == c.collid && !x.arrived
  else ((s.core core).queue c.kind.onMatrix).filter (·.id == c.id)

/-- R141, R182, R346, R354: every block of the command has run and what its REL covers is written, and it completes, arriving
with its bytes; what it has still to write keeps it in its queue. -/
def State.finishCmd (s : State) (core : Nat) (c : Cmd) : State :=
  let all := s.together core c
  let ids := all.map (·.id)
  let drop := fun (s : State) => s.mapQueue core c.kind.onMatrix fun q =>
    (q.filter fun x => !ids.contains x.id || !x.held.isEmpty).map fun x =>
      if ids.contains x.id then { x with bar := none, arrived := true } else x
  match c.bar with
  | none => drop s
  | some b =>
    match s.completeBar c.team b c.region ((all.map (·.bytes)).foldl (· + ·) 0) with
    | .ok s => drop s
    | .error x => s.engineFault core c x 0 (BitVec.ofNat 64 b)

end Sys2Proof.Machine
end

