-- ==== Sys2Proof/Machine/CopyEngine.lean ====
section
/-! DEFINITION. Sys2Proof/Machine/CopyEngine.lean: the blocks of the copy engine's commands (R281): TCOPY and TCOPY.C
(R353), RQT (R355) and TGATH (R356). -/

namespace Sys2Proof.Machine

/-- What one block does: the bytes it counts and the state after it. -/
abbrev BlockRes := Except EngineStop (Nat × State)

/-- Bytes that a list of writes writes. -/
def writesLen (ws : List EngineWrite) : Nat := (ws.map (·.2.length)).foldl (· + ·) 0

/-- Perform the writes of a block. -/
def State.blockWrites (s : State) (c : Cmd) (ws : List EngineWrite) : BlockRes :=
  match s.engineWrite c ws with
  | .error e => .error e
  | .ok s => .ok (writesLen ws, s)

/-! ## Elements -/

/-- An address `n` bytes on. -/
def plus (a : Word) (n : Nat) : Word := a + BitVec.ofNat 64 n

/-- Read `n` raw elements of each plane from element `e` of the row at `a`; `e` starts a byte. -/
def State.readPlanes (s : State) (c : Cmd) (f planes : Nat) (a : Word) (pst e n : Nat) : Except EngineStop (List Nat × State) :=
  match s.engineBytes c (plus a (rowBytes f e)) (rowBytes f n) with
  | .error x => .error x
  | .ok (bs, s) =>
    if f ≠ 9 then .ok (unpackElems f n bs, s)
    else rest s (planes - 1) 1 [unpackElems f n bs]
where
  /-- The planes after the first. -/
  rest (s : State) : Nat → Nat → List (List Nat) → Except EngineStop (List Nat × State)
    | 0, _, ps => .ok (joinPlanes ps, s)
    | k + 1, j, ps =>
      match s.engineBytes c (plus a (j * pst + rowBytes f e)) (rowBytes f n) with
      | .error x => .error x
      | .ok (bs, s) => rest s k (j + 1) (ps ++ [unpackElems f n bs])

/-- Read one scale byte, where there is a scale array. -/
def State.readScale (s : State) (c : Cmd) (base : Word) (i : Nat) : Except EngineStop (Option Nat × State) :=
  if base = 0 then .ok (none, s)
  else
    match s.engineBytes c (plus base i) 1 with
    | .error x => .error x
    | .ok (bs, s) => .ok (some (leNat bs), s)

/-- The writes of `xs` at element `e` of the row at `a`, one for each plane. -/
def elemWrites (f planes : Nat) (a : Word) (pst e : Nat) (xs : List Nat) : List EngineWrite :=
  if f = 9 then (List.range planes).map fun j => (plus a (j * pst + rowBytes f e), packElems f (planeOf xs j))
  else [(plus a (rowBytes f e), packElems f xs)]

/-! ## TCOPY and TCOPY.C -/

/-- R353: the bits are copied. -/
def CopyPlan.bitwise (p : CopyPlan) : Bool := p.sf == p.df && p.sp == p.dp && (p.ssc == 0) == (p.dsc == 0)

/-- R353: the elements and the scale byte of a unit, from raw elements and their scale. -/
def CopyPlan.convert (p : CopyPlan) (dmode : BitVec 3) (xs : List Nat) (X : Option Nat) : List Nat × Option Nat :=
  if p.bitwise then (xs, X)
  else
    let vs := xs.map fun x => elemValue p.sf p.sp x X
    if p.dsc ≠ 0 then
      let (X', ys) := quantBlock p.df vs
      (ys.map fun y => quantCode p.df y.val, some X')
    else (vs.map (convertElem p.df dmode), none)

/-- Units of at most 32 elements in a row. -/
def CopyPlan.units (p : CopyPlan) : Nat := (p.cols + 31) / 32

/-- Destination bytes of `n` elements with their scales. -/
def CopyPlan.destBytes (p : CopyPlan) (n : Nat) : Nat :=
  max 1 p.dp * rowBytes p.df n + (if p.dsc = 0 then 0 else n / 32)

/-- Destination bytes before unit `t`. -/
def CopyPlan.offset (p : CopyPlan) (t : Nat) : Nat :=
  t / p.units * p.destBytes p.cols + p.destBytes (t % p.units * 32)

/-- R281: blocks of a copy: 1 KiB of destination bytes each.  A unit is read in the block in which it starts; what of it
lies beyond that block is written with the next. -/
def CopyPlan.blocks (p : CopyPlan) : Nat := (p.rows * p.destBytes p.cols + 1023) / 1024

/-- The first unit that starts at or after destination byte `x`. -/
def CopyPlan.firstUnit (p : CopyPlan) (x : Nat) : Nat :=
  let r := x / p.destBytes p.cols
  let u := (x % p.destBytes p.cols + p.destBytes 32 - 1) / p.destBytes 32
  r * p.units + min u p.units

/-- Units of block `b`. -/
def CopyPlan.blockUnits (p : CopyPlan) (b : Nat) : List Nat :=
  ((List.range 1024).map (p.firstUnit (1024 * b) + ·)).takeWhile fun t =>
    decide (t < p.rows * p.units) && decide (p.offset t < 1024 * (b + 1))

/-- The writes of one unit. -/
def State.copyUnit (s : State) (c : Cmd) (p : CopyPlan) (t : Nat) : Except EngineStop (List EngineWrite × State) :=
  let r := t / p.units
  let e := t % p.units * 32
  let n := min 32 (p.cols - e)
  match s.readPlanes c p.sf p.sp (plus p.src (r * p.sst)) p.spst e n with
  | .error x => .error x
  | .ok (xs, s) =>
    match s.readScale c p.ssc ((r * p.cols + e) / 32) with
    | .error x => .error x
    | .ok (X, s) =>
      let (ys, Y) := p.convert c.dmode xs X
      .ok (elemWrites p.df p.dp (plus p.dst (r * p.dstr)) p.dpst e ys ++
        (Y.map fun y => (plus p.dsc ((r * p.cols + e) / 32), [BitVec.ofNat 8 y])).toList, s)

/-- The writes of some units, in order; every read of a block precedes its writes (R353). -/
def State.copyUnits (c : Cmd) (p : CopyPlan) : State → List Nat → Except EngineStop (List EngineWrite × State)
  | s, [] => .ok ([], s)
  | s, t :: ts =>
    match s.copyUnit c p t with
    | .error x => .error x
    | .ok (ws, s) =>
      match State.copyUnits c p s ts with
      | .error x => .error x
      | .ok (vs, s) => .ok (ws ++ vs, s)

/-- The first write is that of a scale byte. -/
def CopyPlan.scaleFirst (p : CopyPlan) (ws : List EngineWrite) : Bool :=
  p.dsc != 0 && ws.head?.any fun w =>
    decide (p.dsc.toNat ≤ w.1.toNat) && decide (w.1.toNat < p.dsc.toNat + p.rows * p.cols / 32)

/-- The first `n` bytes of some writes, and the rest. -/
def splitWrites : Nat → List EngineWrite → List EngineWrite × List EngineWrite
  | _, [] => ([], [])
  | n, w :: ws =>
    if n = 0 then ([], w :: ws)
    else if w.2.length ≤ n then
      let r := splitWrites (n - w.2.length) ws
      (w :: r.1, r.2)
    else ([(w.1, w.2.take n)], (plus w.1 n, w.2.drop n) :: ws)

/-- R281, R353: the writes of a block that brings a copy to `n` more bytes, and the rest: a scale byte goes with the last
element of its unit. -/
def CopyPlan.cut (p : CopyPlan) (n : Nat) (ws : List EngineWrite) : List EngineWrite × List EngineWrite :=
  let r := splitWrites n ws
  if p.scaleFirst r.2 then (r.1 ++ r.2.take 1, r.2.drop 1) else r

/-- Block `b` of a copy: what the block before it left, and the units that start in it. -/
def State.copyBlock (s : State) (core : Nat) (c : Cmd) (p : CopyPlan) (b : Nat) : BlockRes :=
  match s.copyUnits c p (p.blockUnits b) with
  | .error x => .error x
  | .ok (ws, s) =>
    let r := p.cut (1024 * (b + 1) - c.bytes) (c.carry ++ ws)
    match s.blockWrites c r.1 with
    | .error x => .error x
    | .ok (n, s) => .ok (n, s.mapCmd core false c.id fun x => { x with carry := r.2 })

/-! ## RQT -/

/-- The raw element `e` of the row at `a`: the bits may straddle two bytes. -/
def State.readElem (s : State) (c : Cmd) (f planes : Nat) (a : Word) (pst e : Nat) : Except EngineStop (Nat × State) :=
  go s (if f = 9 then planes else 1) 0 []
where
  /-- Plane after plane, from plane `j` on. -/
  go (s : State) : Nat → Nat → List (List Nat) → Except EngineStop (Nat × State)
    | 0, _, ps => .ok (if f = 9 then (joinPlanes ps).headD 0 else (ps.headD []).headD 0, s)
    | k + 1, j, ps =>
      let w := elemBits f
      let first := e * w / 8
      let n := (e * w + w - 1) / 8 - first + 1
      match s.engineBytes c (plus a (j * pst + first)) n with
      | .error x => .error x
      | .ok (bs, s) => go s k (j + 1) (ps ++ [[leNat bs >>> (e * w % 8) % 2 ^ w]])

/-- The exact values of rows `i`, `i + 1`, ... of column `e`, with their scales. -/
def State.readColumn (c : Cmd) (p : CopyPlan) (e : Nat) : State → Nat → Nat → Except EngineStop (List FVal × State)
  | s, 0, _ => .ok ([], s)
  | s, n + 1, i =>
    match s.readElem c p.sf p.sp (plus p.src (i * p.sst)) p.spst e with
    | .error x => .error x
    | .ok (raw, s) =>
      match s.readScale c p.ssc ((i * p.cols + e) / 32) with
      | .error x => .error x
      | .ok (X, s) =>
        match State.readColumn c p e s n (i + 1) with
        | .error x => .error x
        | .ok (vs, s) => .ok (elemValue p.sf p.sp raw X :: vs, s)

/-- Lists of 32 from a list; the first argument bounds their number. -/
def blocksOf {α : Type} : Nat → List α → List (List α)
  | 0, _ => []
  | n + 1, xs => xs.take 32 :: blocksOf n (xs.drop 32)

/-- R355: block `b`, destination row `b`. -/
def State.rqtBlock (s : State) (c : Cmd) (p : CopyPlan) (b : Nat) : BlockRes :=
  match State.readColumn c p b s p.rows 0 with
  | .error x => .error x
  | .ok (vs, s) =>
    let qs := (blocksOf (p.rows / 32) vs).map (quantBlock p.df)
    let codes := qs.flatMap fun q => q.2.map fun y => quantCode p.df y.val
    s.blockWrites c (elemWrites p.df p.dp (plus p.dst (b * p.dstr)) p.dpst 0 codes ++
      [(plus p.dsc (b * (p.rows / 32)), qs.map fun q => BitVec.ofNat 8 q.1)])

/-! ## TGATH -/

/-- R356: index `n`, which is read once for its row; `held` is the row in progress with its index. -/
def State.gatherIndex (s : State) (c : Cmd) (p : GatherPlan) (held : Option (Nat × Nat)) (n : Nat) :
    Except EngineStop (Nat × State) :=
  match held.filter (·.1 == n) with
  | some (_, j) => .ok (j, s)
  | none =>
    match s.engineBytes c (plus p.index (n * p.idx)) p.idx with
    | .error x => .error x
    | .ok (ib, s) => .ok (leNat ib, s)

/-- R356: the write of element `e` of row `n`, whose index is `j`. -/
def State.gatherElem (s : State) (c : Cmd) (p : GatherPlan) (n e j : Nat) : Except EngineStop (EngineWrite × State) :=
  let dst := plus p.dst (n * p.dstr + e * elemAlign p.df)
  if p.limit ≤ j then .ok ((dst, leBytes (elemAlign p.df) (convertElem p.df 0 (fzero false))), s)
  else
    match s.engineBytes c (plus p.table (j * p.tst + e * elemAlign p.sf)) (elemAlign p.sf) with
    | .error x => .error x
    | .ok (bs, s) =>
      let raw := leNat bs
      let code := if p.sf = p.df then raw else convertElem p.df c.dmode (elemValue p.sf 0 raw none)
      .ok ((dst, leBytes (elemAlign p.df) code), s)

/-- The writes of `n` destination elements from `x` on, counted over all rows, with the row in progress after them. -/
def State.gatherElems (c : Cmd) (p : GatherPlan) :
    State → Option (Nat × Nat) → Nat → Nat → Except EngineStop ((List EngineWrite × Option (Nat × Nat)) × State)
  | s, held, 0, _ => .ok (([], held), s)
  | s, held, k + 1, x =>
    let n := x / p.rowElem
    match s.gatherIndex c p held n with
    | .error e => .error e
    | .ok (j, s) =>
      match s.gatherElem c p n (x % p.rowElem) j with
      | .error e => .error e
      | .ok (w, s) =>
        match State.gatherElems c p s (some (n, j)) k (x + 1) with
        | .error e => .error e
        | .ok ((ws, held), s) => .ok ((w :: ws, held), s)

/-- R356: the rows of the table that indices read ahead name. -/
def GatherPlan.wanted (p : GatherPlan) (fetched : List (Word × List Byte)) : List Foot :=
  fetched.flatMap fun x => ((List.range (8 / p.idx)).map fun i =>
      (x.1.toNat + i * p.idx, leNat ((x.2.drop (i * p.idx)).take p.idx))).filterMap fun y =>
    if p.index.toNat ≤ y.1 && y.1 < p.index.toNat + p.count * p.idx && y.2 < p.limit then
      some { base := plus p.table (y.2 * p.tst), rows := 1, stride := 0, n := p.rowElem * elemAlign p.sf }
    else none

/-- R281: blocks of a gather. -/
def GatherPlan.blocks (p : GatherPlan) : Nat := (p.count * p.rowElem + 63) / 64

/-- Block `b` of a gather: 64 destination elements. -/
def State.gatherBlock (s : State) (core : Nat) (c : Cmd) (p : GatherPlan) (b : Nat) : BlockRes :=
  match State.gatherElems c p s c.row (min 64 (p.count * p.rowElem - 64 * b)) (64 * b) with
  | .error e => .error e
  | .ok ((ws, row), s) =>
    match s.blockWrites c ws with
    | .error e => .error e
    | .ok (n, s) => .ok (n, s.mapCmd core false c.id fun x => { x with row })

end Sys2Proof.Machine
end

