-- ==== Sys2Proof/Machine/MatrixEngine.lean ====
section
/-! DEFINITION. Sys2Proof/Machine/MatrixEngine.lean: the blocks of the matrix engine's commands: MMA with its monitors, tags
and status word (R205-R209, R213, R214, R267-R270, R359), TLOAD and TSTORE (R361). -/

namespace Sys2Proof.Machine

/-! ## Shapes -/

/-- K of one block: 32 in the Narrow class, 8 in Half; the Single and Double classes run as one block (R267, R281). -/
def blockK (cls : Nat) : Nat := if cls = 0 then 32 else if cls = 1 then 8 else classK cls

/-- Blocks of an MMA. -/
def matBlocks (e : Word32) : Nat := let k := matClass (rungFields e).1; classK k / blockK k

/-- Accumulator mode of a shape: 0 ACC32, 1 ACC64, 2 ACCX. -/
def matAcc (e : Word32) : Nat := (rungFields e).2.2.2.2.1

/-- The format in which partial sums are rounded (R269): F, or G in the chained classes. -/
def accFmt (acc : Nat) : Fmt := if acc = 0 then fp32 else if acc = 1 then fp64 else x96

/-- The format of a stored element. -/
def storeFmt (acc : Nat) : Fmt := if acc = 1 then fp64 else fp32

/-- P of R206. -/
def accP (acc : Nat) : Nat := if acc = 1 then 53 else 24

/-- Rounding to nearest even, never flushed. -/
def rne (f : Fmt) (x : FVal) : FVal := (f.rnd {} 0 x).val

/-! ## Operands -/

/-- An operand of an MMA: rows of exact values. -/
abbrev MatRows := List (List FVal)

/-- An operand as it is read: raw elements with their scales. -/
abbrev RawRows := List (List (Nat × Option Nat))

/-- The exact values of an operand. -/
def matValues (f planes : Nat) (rows : RawRows) : MatRows := rows.map fun r => r.map fun x => elemValue f planes x.1 x.2

/-- Rows `r`, `r + 1`, ... of an operand. -/
def State.readRows (c : Cmd) (f planes k : Nat) (base : Word) (st pst : Nat) (scale : Word) :
    State → Nat → Nat → Except EngineStop (RawRows × State)
  | s, 0, _ => .ok ([], s)
  | s, n + 1, r =>
    match s.readPlanes c f planes (plus base (r * st)) pst 0 k with
    | .error x => .error x
    | .ok (raw, s) =>
      match s.engineBytes c (plus scale (r * (k / 32))) (if scale = 0 then 0 else k / 32) with
      | .error x => .error x
      | .ok (xs, s) =>
        let row := (raw.zipIdx).map fun y => (y.1, (xs[y.2 / 32]?).map (·.toNat))
        match State.readRows c f planes k base st pst scale s n (r + 1) with
        | .error x => .error x
        | .ok (rows, s) => .ok (row :: rows, s)

/-- A and B of an MMA, read from memory. -/
def State.readOperands (s : State) (c : Cmd) : Except EngineStop ((RawRows × RawRows) × State) :=
  let d := c.desc
  let (fa, fb, pa, pb, _, _) := rungFields c.rung
  let k := classK (matClass fa)
  match State.readRows c fa pa k (dword d 0) (field (dword d 4) 0 32) (field (dword d 5) 0 32) (dword d 2) s 64 0 with
  | .error x => .error x
  | .ok (A, s) =>
    match State.readRows c fb pb k (dword d 1) (field (dword d 4) 32 32) (field (dword d 5) 32 32) (dword d 3) s 64 0 with
    | .error x => .error x
    | .ok (B, s) => .ok ((A, B), s)

/-- R268: the products of one element. -/
def products (a b : List FVal) : List FVal := a.zipWith fmul b

/-- R268: an exact sum. -/
def exactSum : List FVal → FVal
  | [] => fzero false
  | x :: xs => xs.foldl (fadd false) x

/-- The products of block `t`. -/
def blockPart (k t : Nat) (xs : List FVal) : List FVal := (xs.drop (k * t)).take k

/-! ## The range monitor (R205) -/

/-- What the range monitor has seen. -/
structure Measure where
  /-- Highest exponent. -/
  maxE : Option Int := none
  /-- Something infinite or NaN. -/
  special : Bool := false
  /-- Products below EMIN. -/
  small : Nat := 0
  deriving DecidableEq, Repr

/-- Measure a product or a partial sum. -/
def Measure.see (m : Measure) (x : FVal) : Measure :=
  if x.isSpecial then { m with special := true }
  else if x.isNZ then { m with maxE := some (max (m.maxE.getD x.E) x.E) }
  else m

/-- Measure a product, which is also counted below EMIN. -/
def Measure.product (emin : Int) (m : Measure) (x : FVal) : Measure :=
  let m := m.see x
  if x.isNZ && decide (x.E < emin) then { m with small := m.small + 1 } else m

/-- The range monitor's ceiling is crossed. -/
def Measure.crosses (m : Measure) (d : List Word) : Bool :=
  !descNoCeiling d && (m.special || m.maxE.any fun e => decide (descEmax d < e))

/-- The products and the sum of block `t` of every element. -/
def measureBlock (emin : Int) (A B : MatRows) (k t : Nat) : Measure :=
  A.foldl (fun m a => B.foldl (fun m b =>
    let ps := blockPart k t (products a b)
    (ps.foldl (Measure.product emin) m).see (exactSum ps)) m) {}

/-- The products of every element of a chained MMA. -/
def measureProducts (emin : Int) (A B : MatRows) : Measure :=
  A.foldl (fun m a => B.foldl (fun m b => (products a b).foldl (Measure.product emin) m) m) {}

/-! ## One element (R206, R269) -/

/-- R269: KSEQ over the rounded block sums, with every partial sum, newest first. -/
def seqSums (F : Fmt) : FVal → List FVal → List FVal → FVal × List FVal
  | s, [], seen => (s, seen)
  | s, x :: xs, seen =>
    let y := rne F (fadd false s x)
    seqSums F y xs (y :: seen)

/-- R269: KTREE: neighbours are combined, level by level; the lists here have two or four members. -/
def treeSums (F : Fmt) : Nat → List FVal → List FVal → FVal × List FVal
  | 0, xs, seen => (xs.headD (fzero false), seen)
  | _, [], seen => (fzero false, seen)
  | _, [x], seen => (x, seen)
  | n + 1, xs, seen =>
    let h := (xs.length + 1) / 2
    let (a, seen) := treeSums F n (xs.take h) seen
    let (b, seen) := treeSums F n (xs.drop h) seen
    let y := rne F (fadd false a b)
    (y, y :: seen)

/-- R269: block sums combined in the order ORD. -/
def combine (F : Fmt) (ord : Nat) (bs : List FVal) : FVal × List FVal :=
  let xs := bs.map (rne F)
  if ord = 1 then treeSums F xs.length xs xs
  else seqSums F (xs.headD (fzero false)) xs.tail xs

/-- R269: the fused chain. -/
def chainSums (G : Fmt) (acc : FVal) (ps : List FVal) : FVal × List FVal :=
  ps.foldl (fun (x : FVal × List FVal) p => let y := rne G (fadd false x.1 p); (y, y :: x.2)) (acc, [])

/-- What an MMA computes for one element. -/
structure ElemSum where
  /-- The new value, before R214. -/
  v : FVal
  /-- The sum of magnitudes. -/
  m : FVal
  /-- Partial sums and the value. -/
  seen : List FVal
  deriving DecidableEq, Repr

/-- R206: the magnitude that an element's byte records. -/
def absStart (b : Byte) : FVal := if b = 0 then fzero false else .fin false 1 ((b.toNat : Int) - 128)

/-- R206, R269: the new value and the magnitudes of an element of value `c`. -/
def elemSum (e : Word32) (c : FVal) (byte : Byte) (ps : List FVal) : ElemSum :=
  let (fa, _, _, _, acc, ord) := rungFields e
  let cls := matClass fa
  let F := accFmt acc
  let k := blockK cls
  if cls ≤ 1 then
    let part := fun (xs : List FVal) => (List.range (classK cls / k)).map fun t => exactSum (blockPart k t xs)
    let (x, seen) := combine F ord (part ps)
    let (y, _) := combine F ord (part (ps.map FVal.abs))
    let v := rne fp32 (fadd false c x)
    { v, m := rne F (fadd false (absStart byte) y), seen := v :: seen }
  else
    let (x, seen) := chainSums F c ps
    let (y, _) := chainSums F (absStart byte) (ps.map FVal.abs)
    let v := rne (storeFmt acc) x
    { v, m := y, seen := v :: seen }

/-- R206: the tag of an element. -/
def elemTag (P : Nat) (v m : FVal) : Tag :=
  let s : Int :=
    if v.isSpecial || m.isSpecial then 0
    else if m.isZero then P
    else if v.isZero then 0
    else P - (m.E - v.E)
  BitVec.ofNat 6 (min (P : Int) (max 0 s)).toNat

/-- R214: the replacement of an element result, where it needs one. -/
def saturateElem (f : Fmt) (emax : Int) (noCeiling : Bool) (v : FVal) : Option FVal :=
  let top := if noCeiling then expOf f.maxM f.maxE else min emax (expOf f.maxM f.maxE)
  let above := match v with
    | .nan => false
    | .inf _ => true
    | .fin _ m e => m != 0 && decide (top < expOf m e)
  if !above then none
  else if top < f.q then some (fzero v.neg?)
  else
    -- the largest significand at exponent `top`: p bits, fewer where the value is subnormal
    let bits := (min (f.fb : Int) (top - f.q)).toNat + 1
    some (.fin v.neg? (2 ^ bits - 1) (top - (bits - 1 : Nat)))

/-! ## The slot's status word (R208, R209) -/

/-- Add to a field of a status word, which saturates. -/
def addField (w : Word) (lo n x : Nat) : Word :=
  let old := field w lo n
  (w &&& ~~~(at_ (2 ^ n - 1) lo)) ||| at_ (min (2 ^ n - 1) (old + x)) lo

/-- R209: OVF, NAN and MINTAG after an MMA. -/
def statusAfter (w : Word) (ovf nan mintag : Nat) : Word :=
  let w := addField (addField w 48 16 ovf) 32 16 nan
  let t := min (field w 18 6) mintag
  (w &&& ~~~(at_ 0x3F 18)) ||| at_ t 18

/-- R209: a monitor is crossed: its bit, TRIPS, and NONSPEC. -/
def statusCross (w : Word) (lo : Nat) (nonspec : Bool) : Word :=
  addField (w ||| at_ 1 lo ||| (if nonspec then at_ 1 2 else 0)) 24 8 1

/-- R207, R209, R210, R213, R417: the command crosses a monitor: 1 range, 2 underflow, 3 cancellation.  The first
crossing of a speculative region that has taken no top-rung action trips it; where a trip can only take the top-rung
action, the region is flagged from this command on. -/
def State.crossMonitor (s : State) (c : Cmd) (mon : Nat) : State :=
  match (s.team c.team).regionOf c.region with
  | none => s
  | some r =>
    let s := s.mapSlot c.team c.slot fun x => { x with status := statusCross x.status (6 - mon) (!r.spec) }
    if !r.spec || r.flagged || r.trip.isSome then s
    else
      let r := { r with trip := some (BitVec.ofNat 2 mon), tripGid := c.gid, tripProg := c.progress, tripCmd := c.id
                        flagged := !r.canReplay && descTopact r.desc != 0 }
      let t := s.team c.team
      s.setTeam c.team (t.setRegion r)

/-- R205: what one block measured reaches the region, and the monitors. -/
def State.applyMeasure (s : State) (core : Nat) (c : Cmd) (m : Measure) : State :=
  match (s.team c.team).regionOf c.region with
  | none => s
  | some r =>
    let d := r.desc
    let maxExp := match m.maxE with
      | some e => some (max (r.maxExp.getD e) e)
      | none => r.maxExp
    let t := s.team c.team
    let s := s.setTeam c.team (t.setRegion { r with maxExp, uflow := r.uflow + m.small })
    let crossed := (((s.core core).matQ.find? (·.id == c.id)).getD c).crossed
    let s := if m.crosses d && !crossed then
        (s.crossMonitor c 1).mapCmd core true c.id fun x => { x with crossed := true }
      else s
    if descUbudget d ≠ 0xFFFFFFFF && r.uflow ≤ descUbudget d && descUbudget d < r.uflow + m.small then s.crossMonitor c 2 else s

/-! ## MMA -/

/-- The value of element `e` of an accumulator. -/
def accValue (pair : Bool) (lo hi : Slot) (e : Nat) : FVal :=
  if pair then fp64.decode ((lo.elem e).bits.toNat + (hi.elem e).bits.toNat * 2 ^ 32) else fp32.decode (lo.elem e).bits.toNat

/-- Write a value with its tag and byte to an accumulator. -/
def accStore (pair : Bool) (slots : Slot × Slot) (e : Nat) (v : FVal) (tag : Tag) (abs : Byte) : Slot × Slot :=
  if pair then
    let x := fp64.encode v
    (slots.1.setElem e ⟨BitVec.ofNat 32 x, tag, abs⟩, slots.2.setElem e ⟨BitVec.ofNat 32 (x / 2 ^ 32), 0, 0⟩)
  else (slots.1.setElem e ⟨BitVec.ofNat 32 (fp32.encode v), tag, abs⟩, slots.2)

/-- Every element's sums, by row. -/
def matSums (e : Word32) (pair : Bool) (lo hi : Slot) (A B : MatRows) : List (Nat × ElemSum) :=
  (A.zipIdx).flatMap fun a => (B.zipIdx).map fun b =>
    let i := a.2 * 64 + b.2
    (i, elemSum e (accValue pair lo hi i) (lo.elem i).abs (products a.1 b.1))

/-- The element results after R214, with their tags: index, value, magnitude, tag, replaced.  DESIGN CHOICE: the tag of a
replaced element is that of its replacement, the new value of R206 (log 111). -/
def matResults (acc : Nat) (sat : Option (List Word)) (xs : List (Nat × ElemSum)) : List (Nat × FVal × FVal × Tag × Bool) :=
  xs.map fun (i, x) =>
    let r := match sat with
      | some d => saturateElem (storeFmt acc) (descEmax d) (descNoCeiling d) x.v
      | none => none
    let v := r.getD x.v
    (i, v, x.m, elemTag (accP acc) v x.m, r.isSome)

/-- R214: the descriptor under which the command saturates, if it does. -/
def State.saturating (s : State) (c : Cmd) : Option (List Word) :=
  match (s.team c.team).regionOf c.region with
  | some r => if r.flagged && descTopact r.desc == 2 then some r.desc else none
  | none => none

/-- R207: the cancellation monitor's verdict on the results. -/
def State.cancels (s : State) (c : Cmd) (rs : List (Nat × FVal × FVal × Tag × Bool)) : Bool :=
  match (s.team c.team).regionOf c.region with
  | some r => descSmin r.desc != 0 && rs.any fun x => x.2.2.2.1.toNat < descSmin r.desc
  | none => false

/-- R359: the results reach the slot in one step, with the status word and the region's record. -/
def State.matWrite (s : State) (c : Cmd) (rs : List (Nat × FVal × FVal × Tag × Bool)) : State :=
  let t := s.team c.team
  let acc := matAcc c.rung
  let pair := acc == 1
  let slots := rs.foldl (fun sl x => accStore pair sl x.1 x.2.1 x.2.2.2.1 (absByte x.2.2.1)) (t.slot c.slot, t.slot (c.slot + 1))
  let low := rs.foldl (fun m x => min m x.2.2.2.1.toNat) 0x3F
  let sat := rs.any (·.2.2.2.2)
  let ovf := (rs.filter fun x => x.2.2.2.2 || x.2.1.isSpecial && x.2.1 != .nan).length
  let nan := (rs.filter fun x => x.2.1 == .nan).length
  let region := t.regionOf c.region
  let flag := if region.any (·.flagged) then at_ 1 7 else 0
  let status := statusAfter slots.1.status ovf nan low ||| flag ||| (if sat then at_ 1 6 else 0)
  let t := t.setSlot c.slot { slots.1 with status }
  let t := if pair then t.setSlot (c.slot + 1) slots.2 else t
  let t := match region with
    | some r => t.setRegion { r with minTag := BitVec.ofNat 6 (min r.minTag.toNat low), sat := r.sat || sat }
    | none => t
  s.setTeam c.team t

/-- R359: the last block of an MMA. -/
def State.matFinish (s : State) (core : Nat) (c : Cmd) (A B : MatRows) (m : Measure) : State :=
  let t := s.team c.team
  let acc := matAcc c.rung
  let xs := matSums c.rung (acc == 1) (t.slot c.slot) (t.slot (c.slot + 1)) A B
  let m := xs.foldl (fun m x => x.2.seen.foldl Measure.see m) m
  let s := s.applyMeasure core c m
  let rs := matResults acc (s.saturating c) xs
  let s := if s.cancels c rs then s.crossMonitor c 3 else s
  s.matWrite c (matResults acc (s.saturating c) xs)

/-- R281, R359: A and B of an MMA, which are read once, when it starts or resumes. -/
def State.operands (s : State) (core : Nat) (c : Cmd) : Except EngineStop ((MatRows × MatRows) × State) :=
  let (fa, fb, pa, pb, _, _) := rungFields c.rung
  let held : Except EngineStop ((RawRows × RawRows) × State) :=
    if c.opA.isEmpty then
      match s.readOperands c with
      | .error x => .error x
      | .ok ((a, b), s) => .ok ((a, b), s.mapCmd core true c.id fun x => { x with opA := a, opB := b })
    else .ok ((c.opA, c.opB), s)
  match held with
  | .error x => .error x
  | .ok ((a, b), s) => .ok ((matValues fa pa a, matValues fb pb b), s)

/-- R359: block `t` of an MMA. -/
def State.matBlock (s : State) (core : Nat) (c : Cmd) (t : Nat) : BlockRes :=
  match s.operands core c with
  | .error x => .error x
  | .ok ((A, B), s) =>
    let cls := matClass (rungFields c.rung).1
    let emin := match (s.team c.team).regionOf c.region with
      | some r => descEmin r.desc
      | none => 0
    let m := if cls ≤ 1 then measureBlock emin A B (blockK cls) t else measureProducts emin A B
    .ok (0, if t + 1 = matBlocks c.rung then s.matFinish core c A B m else s.applyMeasure core c m)

/-! ## TLOAD and TSTORE (R361) -/

/-- One loaded element. -/
def tileLoad (f : Nat) (slots : Slot × Slot) (e raw : Nat) : Slot × Slot :=
  if f = 1 then
    let v := fp64.decode raw
    (slots.1.setElem e ⟨BitVec.ofNat 32 raw, 53, absByte v⟩, slots.2.setElem e ⟨BitVec.ofNat 32 (raw / 2 ^ 32), 0, 0⟩)
  else
    let bits := if f = 0 then raw else fp32.encode ((fmtOf f).decode raw)
    (slots.1.setElem e (loadedElem (BitVec.ofNat 32 bits) 24), slots.2)

/-- Row `b` of a TLOAD. -/
def State.tloadRow (s : State) (c : Cmd) (b : Nat) : BlockRes :=
  let f := tileFmt c.desc
  match s.engineBytes c (plus (dword c.desc 0) (b * tileStride c.desc)) (64 * elemAlign f) with
  | .error x => .error x
  | .ok (bs, s) =>
    let t := s.team c.team
    let slots := ((unpackElems f 64 bs).zipIdx).foldl (fun sl x => tileLoad f sl (b * 64 + x.2) x.1) (t.slot c.slot, t.slot (c.slot + 1))
    let t := t.setSlot c.slot slots.1
    .ok (0, s.setTeam c.team (if f = 1 then t.setSlot (c.slot + 1) slots.2 else t))

/-- One stored element. -/
def tileStore (f : Nat) (lo hi : Slot) (e : Nat) : Nat :=
  if f = 1 then (lo.elem e).bits.toNat + (hi.elem e).bits.toNat * 2 ^ 32
  else if f = 0 then (lo.elem e).bits.toNat
  else (fmtOf f).encode (rne (fmtOf f) (fp32.decode (lo.elem e).bits.toNat))

/-- Row `b` of a TSTORE. -/
def State.tstoreRow (s : State) (c : Cmd) (b : Nat) : BlockRes :=
  let f := tileFmt c.desc
  let t := s.team c.team
  let xs := (List.range 64).map fun j => tileStore f (t.slot c.slot) (t.slot (c.slot + 1)) (b * 64 + j)
  s.blockWrites c [(plus (dword c.desc 0) (b * tileStride c.desc), packElems f xs)]

end Sys2Proof.Machine
end

