-- ==== Sys2Proof/Machine/EngineRun.lean ====
section
/-! DEFINITION. Sys2Proof/Machine/EngineRun.lean: how an engine advances: one block of a command (R281), in slot order on the
matrix engine (R349), its completion, and ENGINE_COMPLETE. -/

namespace Sys2Proof.Machine

/-- The rung entry that a command carries (R197, R347). -/
def Cmd.rungEntry (c : Cmd) : Option Word32 := c.region.map fun _ => c.rung

/-- R281: blocks of a command. -/
def Cmd.blocks (c : Cmd) : Nat :=
  match c.kind with
  | .tcopy | .tcopyC => ((copyPlan c.desc c.rungEntry false (c.kind == .tcopyC)).map (·.blocks)).getD 1
  | .rqt => ((copyPlan c.desc c.rungEntry true false).map (·.cols)).getD 1
  | .tgath => ((gatherPlan c.desc).map (·.blocks)).getD 1
  | .mma => matBlocks c.rung
  | .tload | .tstore => 64
  | .tzero => 1

/-- Run block `b` of a command. -/
def State.blockOf (s : State) (core : Nat) (c : Cmd) (b : Nat) : BlockRes :=
  match c.kind with
  | .tcopy | .tcopyC =>
    match copyPlan c.desc c.rungEntry false (c.kind == .tcopyC) with
    | some p => s.copyBlock core c p b
    | none => .ok (0, s)
  | .rqt =>
    match copyPlan c.desc c.rungEntry true false with
    | some p => s.rqtBlock c p b
    | none => .ok (0, s)
  | .tgath =>
    match gatherPlan c.desc with
    | some p => s.gatherBlock core c p b
    | none => .ok (0, s)
  | .mma => s.matBlock core c b
  | .tload => s.tloadRow c b
  | .tstore => s.tstoreRow c b
  | .tzero => .ok (0, s.mapSlot c.team c.slot Slot.zeroed)

/-- Every slice of a command has been accepted (R354). -/
def State.gathered (s : State) (core : Nat) (c : Cmd) : Bool :=
  c.kind != .tcopyC || (s.together core c).length == c.nslices

/-- The command may run a block: not stopped, in its turn on its slots (R349), and not in a tripped region (R207). -/
def State.mayRun (s : State) (core : Nat) (c : Cmd) : Bool :=
  let t := s.team c.team
  !c.stopped && t.phase == .resident && (s.part c.part).state == .run && !c.arrived && c.done < c.blocks &&
  s.gathered core c &&
  !(c.kind.onMatrix && (s.slotBusy c.team c.slot c.id || (c.pair && s.slotBusy c.team (c.slot + 1) c.id))) &&
  !(c.kind == .mma && ((t.regionOf c.region).any (·.trip.isSome)))

/-- R182: the command has run its last block and written what its REL covers and, in a collective, so have the others. -/
def State.ran (s : State) (core : Nat) (c : Cmd) : Bool :=
  (s.together core c).all fun x => decide (x.blocks ≤ x.done) && !x.owes

/-- A command completes once nothing of it stands before its arrival. -/
def State.finishIfRan (s : State) (core : Nat) (c : Cmd) : State := if s.ran core c then s.finishCmd core c else s

/-- What a block that cannot run comes to: a halt, or a region that lacks a line. -/
def State.blockStop (s : State) (core : Nat) (c : Cmd) : EngineStop → Res
  | .wait => .fault .notEnabled
  | .starve =>
    let t := s.team c.team
    match t.regionOf c.region with
    | some r => if r.starved then .fault .notEnabled else .next (s.setTeam c.team (t.setRegion { r with starved := true }))
    | none => .fault .notEnabled
  | .fail x a => .next (s.engineFault core c x a 0)

/-- Command `id` of an engine. -/
def State.cmdOf (s : State) (core : Nat) (matrix : Bool) (id : Nat) : Option Cmd :=
  ((s.core core).queue matrix).find? (·.id == id)

/-- What one block of `c` comes to: progress and perhaps completion, or what stops it. -/
def State.runBlock (s : State) (core : Nat) (c : Cmd) : Res :=
  match s.blockOf core c c.done with
  | .error e => s.blockStop core c e
  | .ok (n, s) =>
    let s := s.mapCmd core c.kind.onMatrix c.id fun x => { x with done := x.done + 1, bytes := x.bytes + n }
    .next (s.finishIfRan core ((s.cmdOf core c.kind.onMatrix c.id).getD c))

/-- R182: a command that has run its last block performs the writes it held: it completes, or leaves its engine. -/
def State.flushCmd (s : State) (core : Nat) (c : Cmd) : Res :=
  match State.heldPutAll c s c.held with
  | .error e => s.blockStop core c e
  | .ok s =>
    .next (if c.arrived then s.mapQueue core c.kind.onMatrix fun q => q.filter (·.id != c.id)
      else (s.mapCmd core c.kind.onMatrix c.id fun x => { x with held := [] }).finishIfRan core { c with held := [] })

/-- R182: the group that issued the command, or an earlier command of it, has written the byte at `loc` before, and no ACQ
orders the command behind that. -/
def State.wroteBefore (s : State) (c : Cmd) (loc : Nat) : Bool :=
  let g := s.group c.issuer
  !(c.acq && c.covers loc) &&
    (g.past.any (·.1 == loc) || g.behind.any fun x => decide (x.cmd < c.id) && (x.byte loc).isSome)

/-- R182: held write `i` of a command takes its point, parts of the same bytes in the order of their blocks; under `past`
ahead of the writes of the issuing group and of its earlier commands, so that nothing remains of the bytes that they wrote. -/
def State.heldTurn (s : State) (core : Nat) (matrix : Bool) (id i : Nat) (past : Bool) : Res :=
  match s.cmdOf core matrix id, (s.cmdOf core matrix id).bind (·.held[i]?) with
  | some c, some h =>
    let skip := fun j => past && s.wroteBefore c (h.loc + j)
    if c.stopped || (c.held.take i).any (fun x => decide (x.loc < h.loc + h.bytes.length) && decide (h.loc < x.loc + x.bytes.length)) ||
        (past && !(List.range h.bytes.length).any skip) then .fault .notEnabled
    else
      match s.heldPut c h skip with
      | .error e => s.blockStop core c e
      | .ok s =>
        let rest := c.held.eraseIdx i
        let s := s.mapCmd core matrix id fun x => { x with held := rest }
        .next (if !c.arrived then s.finishIfRan core { c with held := rest }
          else if rest.isEmpty then s.mapQueue core matrix fun q => q.filter (·.id != id)
          else s)
  | _, _ => .fault .notEnabled

/-- The command has run all its blocks, and writes or its completion are left of it. -/
def State.onlyHeld (s : State) (core : Nat) (c : Cmd) : Bool :=
  !c.stopped && decide (c.blocks ≤ c.done) && (!c.held.isEmpty || (!c.arrived && s.ran core c))

/-- R281: one block of command `id` of an engine, or what is left of it after the last. -/
def State.engineBlock (s : State) (core : Nat) (matrix : Bool) (id : Nat) : Res :=
  match s.cmdOf core matrix id with
  | none => .fault .notEnabled
  | some c =>
    if s.onlyHeld core c then s.flushCmd core c
    else if s.mayRun core c then s.runBlock core c
    else .fault .notEnabled

/-! ## Reads ahead of a block (R182) -/

/-- The footprints that a command reads, indices before table rows in a gather. -/
def Cmd.sources (c : Cmd) : List Foot :=
  let copy := fun (p : CopyPlan) => (p.foots (c.kind == .rqt)).take (max 1 p.sp + (if p.ssc = 0 then 0 else 1))
  match c.kind with
  | .tcopy | .tcopyC => ((copyPlan c.desc c.rungEntry false (c.kind == .tcopyC)).map copy).getD []
  | .rqt => ((copyPlan c.desc c.rungEntry true false).map copy).getD []
  | .tgath => ((gatherPlan c.desc).map fun p => p.foots.drop 2 ++ p.wanted c.fetched).getD []
  | .mma => if c.opA.isEmpty then matFoots c.desc c.rung else []
  | .tload => [{ base := dword c.desc 0, rows := 64, stride := tileStride c.desc, n := 64 * elemAlign (tileFmt c.desc) }]
  | .tstore | .tzero => []

/-- The aligned eight bytes at `a` hold a byte of the footprint. -/
def Foot.reaches (f : Foot) (a : Nat) : Bool :=
  rowsHit f.base.toNat f.rows f.stride f.n a 8

/-- R182: a command reads the aligned eight bytes at `a` of its sources before the block that uses them runs. -/
def State.earlyTurn (s : State) (core : Nat) (matrix : Bool) (id : Nat) (a : Word) : Res :=
  match s.cmdOf core matrix id with
  | none => .fault .notEnabled
  | some c =>
    if a.toNat % 8 != 0 || !s.mayRun core c || !c.sources.any (·.reaches a.toNat) then .fault .notEnabled
    else
      match s.engineBytes { c with fetched := [] } a 8 with
      | .error e => s.blockStop core c e
      | .ok (bs, s) =>
        .next (s.mapCmd core matrix id fun x => { x with fetched := (a, bs) :: x.fetched.filter (·.1 != a) })

/-! ## ENGINE_COMPLETE -/

/-- Blocks of a command, as far as they run; the first argument bounds them. -/
def State.engineBlocks (core : Nat) (matrix : Bool) (id : Nat) : Nat → State → State
  | 0, s => s
  | n + 1, s =>
    match s.engineBlock core matrix id with
    | .next s' => State.engineBlocks core matrix id n s'
    | _ => s

/-- ENGINE_COMPLETE (R346): the engine runs a command's remaining blocks, as far as nothing stops it. -/
def execEngineComplete (core : Nat) (matrix : Bool) (id : Nat) (s : State) : Res :=
  match s.cmdOf core matrix id with
  | none => .fault .notEnabled
  | some c =>
    if s.onlyHeld core c then s.flushCmd core c
    else if s.mayRun core c then
      match s.runBlock core c with
      | .next s' => .next (State.engineBlocks core matrix id (c.blocks - c.done) s')
      | r => r
    else .fault .notEnabled

end Sys2Proof.Machine
end

