-- ==== Sys2Proof/Machine/SaveArea.lean ====
section
/-! DEFINITION. Sys2Proof/Machine/SaveArea.lean: the context save area (R280): where each piece of a team's state stands in
its save slot, and the firmware's save and restore routines (R279). -/

namespace Sys2Proof.Machine

/-- One item of a group's saved state: its offset, its bytes, and how it is read from the group and put back. -/
structure SaveField where
  /-- Offset from the group's base. -/
  off : Nat
  /-- Bytes. -/
  n : Nat
  /-- The value to save. -/
  get : Group → Nat
  /-- Bring a value back. -/
  put : Nat → Group → Group

/-- The first `n` items of a list, filled up with `d`. -/
def fitList {α : Type} (d : α) (n : Nat) (l : List α) : List α := (l ++ List.replicate n d).take n

/-! ## The group block (R280) -/

/-- k0-k63. -/
def saveK : List SaveField := (List.range 64).map fun r =>
  { off := 8 * r, n := 8, get := fun g => (g.getK (BitVec.ofNat 6 r)).toNat
    put := fun x g => g.setK (BitVec.ofNat 6 r) (BitVec.ofNat 64 x) }

/-- R134: a mask-stack entry. -/
def MaskEntry.toNat (e : MaskEntry) : Nat :=
  let kind := match e.kind with
    | .ifThen => 0
    | .ifElse => 1
    | .loop => 2
  e.fmt.toNat * 2 ^ 96 + kind * 2 ^ 81 + e.head.toNat * 2 ^ 64 + e.pend.toNat * 2 ^ 32 + e.outer.toNat

/-- R134, read back. -/
def MaskEntry.ofNat (x : Nat) : MaskEntry :=
  { fmt := BitVec.ofNat 32 (x >>> 96), kind := match x >>> 81 % 4 with
      | 0 => .ifThen
      | 1 => .ifElse
      | _ => .loop
    head := BitVec.ofNat 17 (x >>> 64), pend := BitVec.ofNat 32 (x >>> 32), outer := BitVec.ofNat 32 x }

/-- A mask stack, outermost entry first, at `off`. -/
def saveStack (off : Nat) (get : Group → List MaskEntry) (put : List MaskEntry → Group → Group) : List SaveField :=
  (List.range 32).map fun i =>
    { off := off + 16 * i, n := 16, get := fun g => (((get g).reverse[i]?).map (·.toNat)).getD 0
      put := fun x g => put ((get g).reverse.set i (MaskEntry.ofNat x)).reverse g }

/-- The depth of a mask stack. -/
def saveDepth (off : Nat) (get : Group → List MaskEntry) (put : List MaskEntry → Group → Group) : SaveField :=
  { off, n := 8, get := fun g => (get g).length
    put := fun x g => put (fitList (MaskEntry.ofNat 0) (min 32 x) (get g).reverse).reverse g }

/-- Change the trap slot. -/
def Group.mapTrapSlot (g : Group) (f : TrapSlot → TrapSlot) : Group := { g with trapSlot := g.trapSlot.map f }

/-- Change the handler-block position. -/
def Group.mapHandler (g : Group) (f : LaneBlock → LaneBlock) : Group := { g with handlerBlock := g.handlerBlock.map f }

/-- A value of the trap slot, 0 where it is empty. -/
def Group.ofTrapSlot (g : Group) (f : TrapSlot → Nat) : Nat := (g.trapSlot.map f).getD 0

/-- A value of the handler block, 0 where there is none. -/
def Group.ofHandler (g : Group) (f : LaneBlock → Nat) : Nat := (g.handlerBlock.map f).getD 0

/-- The handler block has started. -/
def Group.inBlock (g : Group) : Bool := g.handlerBlock.isSome && g.running

/-- A doubleword at `off`. -/
def saveWord (off : Nat) (get : Group → Nat) (put : Nat → Group → Group) : SaveField := { off, n := 8, get, put }

/-- 0x200: the streams' scalars. -/
def saveScalars : List SaveField := [
  saveWord 0x200 (·.cpc.toNat) fun x g => { g with cpc := BitVec.ofNat 64 x },
  saveWord 0x208 (·.lpc) fun x g => { g with lpc := x },
  saveWord 0x210 (·.live.toNat) fun x g => { g with live := BitVec.ofNat 32 x },
  saveWord 0x218 (·.cur.toNat) fun x g => { g with cur := BitVec.ofNat 32 x },
  saveWord 0x220 (·.c.toNat) fun x g => { g with c := BitVec.ofNat 8 x },
  saveWord 0x228 (·.fmt.toNat) fun x g => { g with fmt := BitVec.ofNat 32 x },
  saveWord 0x230 (·.lfmt.toNat) fun x g => { g with lfmt := BitVec.ofNat 32 x },
  saveWord 0x238 (·.skip) fun x g => { g with skip := x },
  saveDepth 0x240 (·.stack) fun l g => { g with stack := l },
  saveWord 0x248 (·.lq.length) fun x g => { g with lq := fitList { start := 0, args := [], fmt := 0 } (min 8 x) g.lq },
  saveWord 0x250 (·.cq.length) fun x g => { g with cq := fitList 0 (min 16 x) g.cq }]

/-- 0x700: the lane queue. -/
def saveLaneQueue : List SaveField := (List.range 8).flatMap fun j =>
  let get := fun (f : LaneBlock → Nat) (g : Group) => ((g.lq[j]?).map f).getD 0
  let put := fun (f : LaneBlock → LaneBlock) (g : Group) => { g with lq := g.lq.modify j f }
  let base := 0x700 + 96 * j
  [saveWord base (get (·.start.toNat)) fun x => put fun b => { b with start := BitVec.ofNat 17 x },
    saveWord (base + 8) (get (·.args.length)) fun x => put fun b => { b with args := fitList 0 (min 8 x) b.args },
    saveWord (base + 16) (get (·.fmt.toNat)) fun x => put fun b => { b with fmt := BitVec.ofNat 32 x }] ++
  (List.range 8).map fun i =>
    saveWord (base + 24 + 8 * i) (get fun b => (b.args.getD i 0).toNat) fun x => put fun b => { b with args := b.args.set i (BitVec.ofNat 64 x) }

/-- 0xA00: the condition queue. -/
def saveCondQueue : List SaveField := (List.range 16).map fun i =>
  saveWord (0xA00 + 8 * i) (fun g => (g.cq.getD i 0).toNat) fun x g => { g with cq := g.cq.set i (BitVec.ofNat 64 x) }

/-- 0xA80: the arguments of the block in progress, of the trap slot and of the handler block. -/
def saveArgs : List SaveField := (List.range 8).flatMap fun i => [
  saveWord (0xA80 + 8 * i) (fun g => (g.a.get 0 i).toNat) fun x g => { g with a := SMap.set 0 g.a i (BitVec.ofNat 64 x) },
  saveWord (0xAC0 + 8 * i) (fun g => g.ofTrapSlot fun t => (t.a.get 0 i).toNat)
    fun x g => g.mapTrapSlot fun t => { t with a := SMap.set 0 t.a i (BitVec.ofNat 64 x) },
  saveWord (0xB00 + 8 * i) (fun g => if g.inBlock then (g.a.get 0 i).toNat else g.ofHandler fun b => (b.args.getD i 0).toNat)
    fun x g => if g.inBlock then { g with a := SMap.set 0 g.a i (BitVec.ofNat 64 x) }
      else g.mapHandler fun b => { b with args := b.args.set i (BitVec.ofNat 64 x) }]

/-- An l file at `off` with its tags at `tags`. -/
def saveL (off tags : Nat) (get : Group → SMap LaneVal64) (put : SMap LaneVal64 → Group → Group) : List SaveField :=
  (List.range 128).flatMap fun k => [
    saveWord (off + 8 * k) (fun g => ((get g).get {} k).bits.toNat)
      fun x g => put (SMap.set {} (get g) k { (get g).get {} k with bits := BitVec.ofNat 64 x }) g,
    { off := tags + k, n := 1, get := fun g => ((get g).get {} k).tag.toNat
      put := fun x g => put (SMap.set {} (get g) k { (get g).get {} k with tag := BitVec.ofNat 6 x }) g }]

/-- 0x1500, 0x1580: cause words and stall counters. -/
def saveCounts : List SaveField :=
  ((List.range 32).map fun i =>
    { off := 0x1500 + 4 * i, n := 4, get := fun g => (g.tx.xc.get 0 i).toNat
      put := fun x g => { g with tx := { g.tx with xc := SMap.set 0 g.tx.xc i (BitVec.ofNat 32 x) } } }) ++
  (List.range 16).map fun i =>
    { off := 0x1580 + 4 * i, n := 4, get := fun g => (g.stall.get 0 i).toNat
      put := fun x g => { g with stall := SMap.set 0 g.stall i (BitVec.ofNat 32 x) } }

/-- 0x15C0: TXD, TXBASE, TXTGT, TXSER, TXX and TXW. -/
def saveTx : List SaveField := [
  saveWord 0x15C0 (·.tx.depth) fun x g => { g with tx := { g.tx with depth := x } },
  saveWord 0x15C8 (·.tx.base) fun x g => { g with tx := { g.tx with base := x } },
  saveWord 0x15D0 (·.tx.tgt.toNat) fun x g => { g with tx := { g.tx with tgt := BitVec.ofNat 17 x } },
  saveWord 0x15D8 (fun g => b2n g.tx.serial) fun x g => { g with tx := { g.tx with serial := x % 2 == 1 } },
  saveWord 0x15E0 (·.tx.rejoin.toNat) fun x g => { g with tx := { g.tx with rejoin := BitVec.ofNat 32 x } },
  saveWord 0x15E8 (·.tx.watch) fun x g => { g with tx := { g.tx with watch := x } }]

/-- 0x1600: m0-m7. -/
def saveM : List SaveField := (List.range 8).map fun i =>
  saveWord (0x1600 + 8 * i) (fun g => (g.getM (BitVec.ofNat 3 i)).toNat) fun x g => g.setM (BitVec.ofNat 3 i) (BitVec.ofNat 32 x)

/-- 0x1640, 0x1700: the trap registers and the trap slot. -/
def saveTrap : List SaveField := [
  saveWord 0x1640 (·.trapV.toNat) fun x g => { g with trapV := BitVec.ofNat 64 x },
  saveWord 0x1648 (·.trapPc.toNat) fun x g => { g with trapPc := BitVec.ofNat 64 x },
  saveWord 0x1650 (·.trapLanes.toNat) fun x g => { g with trapLanes := BitVec.ofNat 64 x },
  saveWord 0x1658 (·.trapInfo0.toNat) fun x g => { g with trapInfo0 := BitVec.ofNat 64 x },
  saveWord 0x1660 (·.trapInfo1.toNat) fun x g => { g with trapInfo1 := BitVec.ofNat 64 x },
  saveWord 0x1668 (·.trapInfo2.toNat) fun x g => { g with trapInfo2 := BitVec.ofNat 64 x },
  saveWord 0x1670 (·.trapInfo3.toNat) fun x g => { g with trapInfo3 := BitVec.ofNat 64 x },
  saveWord 0x1678 (fun g => g.ofTrapSlot (·.lpc)) fun x g => g.mapTrapSlot fun t => { t with lpc := x },
  saveWord 0x1680 (fun g => g.ofTrapSlot (·.cur.toNat)) fun x g => g.mapTrapSlot fun t => { t with cur := BitVec.ofNat 32 x },
  saveWord 0x1688 (fun g => g.ofTrapSlot (·.lfmt.toNat)) fun x g => g.mapTrapSlot fun t => { t with lfmt := BitVec.ofNat 32 x },
  saveWord 0x1700 (fun g => g.ofTrapSlot (·.skip)) fun x g => g.mapTrapSlot fun t => { t with skip := x },
  saveDepth 0x1708 trapStack putTrapStack]
where
  /-- The trap slot's mask stack. -/
  trapStack (g : Group) : List MaskEntry := (g.trapSlot.map (·.stack)).getD []
  /-- Replace it. -/
  putTrapStack (l : List MaskEntry) (g : Group) : Group := g.mapTrapSlot fun t => { t with stack := l }

/-- 0x1740, 0x1800, 0x1A00: the handler block: where it stands once it runs, and otherwise the state in which it starts
(R123). -/
def saveHandler : List SaveField := [
  saveWord 0x1740 (fun g => b2n g.handlerBlock.isSome) fun _ g => g,
  saveWord 0x1748 (fun g => if g.inBlock then g.lpc else g.ofHandler (·.start.toNat)) fun x g =>
    if g.inBlock then { g with lpc := x } else g.mapHandler fun b => { b with start := BitVec.ofNat 17 x },
  saveWord 0x1750 (fun g => if g.inBlock then g.cur.toNat else g.ofHandler fun _ => g.live.toNat) fun x g =>
    if g.inBlock then { g with cur := BitVec.ofNat 32 x } else g,
  saveWord 0x1758 (fun g => if g.inBlock then g.skip else 0) fun x g => if g.inBlock then { g with skip := x } else g,
  saveDepth 0x1760 handlerStack putHandlerStack,
  saveWord 0x1768 (fun g => if g.inBlock then g.lfmt.toNat else g.ofHandler (·.fmt.toNat)) fun x g =>
    if g.inBlock then { g with lfmt := BitVec.ofNat 32 x } else g.mapHandler fun b => { b with fmt := BitVec.ofNat 32 x }] ++
  saveStack 0x1800 handlerStack putHandlerStack ++
  saveL 0x1A00 0x1E00 (fun g => if g.inBlock then g.l else []) fun l g => if g.inBlock then { g with l } else g
where
  /-- The mask stack of a handler block that runs. -/
  handlerStack (g : Group) : List MaskEntry := if g.inBlock then g.stack else []
  /-- Replace it. -/
  putHandlerStack (l : List MaskEntry) (g : Group) : Group := if g.inBlock then { g with stack := l } else g

/-- R280: the group block: sizes before contents, so that what is read back has its place. -/
def groupBlock : List SaveField :=
  saveK ++ saveScalars ++ saveTrap ++ saveStack 0x300 (·.stack) (fun l g => { g with stack := l }) ++
  saveStack 0x500 saveTrap.trapStack saveTrap.putTrapStack ++ saveLaneQueue ++ saveCondQueue ++ saveArgs ++
  saveL 0xC00 0x1000 (·.l) (fun l g => { g with l }) ++
  saveL 0x1080 0x1480 (fun g => (g.trapSlot.map (·.l)).getD []) (fun l g => g.mapTrapSlot fun t => { t with l }) ++
  saveCounts ++ saveTx ++ saveM ++ saveHandler

/-- A register file of `n` registers, bits at `off` and tags at `tags`. -/
def saveFile (off tags n : Nat) (get : Group → SMap LaneVal) (put : SMap LaneVal → Group → Group) : List SaveField :=
  (List.range (32 * n)).flatMap fun k => [
    { off := off + 4 * k, n := 4, get := fun g => ((get g).get {} k).bits.toNat
      put := fun x g => put (SMap.set {} (get g) k { (get g).get {} k with bits := BitVec.ofNat 32 x }) g },
    { off := tags + k, n := 1, get := fun g => ((get g).get {} k).tag.toNat
      put := fun x g => put (SMap.set {} (get g) k { (get g).get {} k with tag := BitVec.ofNat 6 x }) g }]

/-- Move an item by an offset. -/
def SaveField.shift (f : SaveField) (d : Nat) : SaveField := { f with off := f.off + d }

/-- R280: every item of group `i` of a team whose type has `regs` registers, at its offset in the slot. -/
def saveGroup (i regs : Nat) : List SaveField :=
  (groupBlock.map (·.shift (0x1000 + 0x2000 * i))) ++
  saveFile (0x80000 + 0x8000 * i) (0x180000 + 0x2000 * i) regs (·.v) (fun x g => { g with v := x }) ++
  saveFile (0x1C0000 + 0x800 * i) (0x1D0000 + 0x200 * i) 16 (·.o) (fun x g => { g with o := x })

/-! ## The save and restore routines -/

/-- Address of a save slot. -/
def Partition.saveSlotAddr (p : Partition) (slot : Nat) : Word :=
  at_ (field p.dbg.saveBase 22 35) 22 + BitVec.ofNat 64 (0x400000 * slot)

/-- Store items (offset, bytes, value) into a slot; a store that fails leaves those before it. -/
def State.saveItems (part : Nat) (base : Word) : State → List (Nat × Nat × Nat) → Except (AgentStop × State) State
  | s, [] => .ok s
  | s, (off, n, x) :: rest =>
    match s.agentWrite part (base + BitVec.ofNat 64 off) n (leBytes n x) with
    | .error e => .error (e, s)
    | .ok s => State.saveItems part base s rest

/-- Load one item. -/
def State.loadItem (s : State) (part : Nat) (base : Word) (off n : Nat) : AgentRes Nat :=
  match s.agentLoc part (base + BitVec.ofNat 64 off) n .read with
  | .error e => .error e
  | .ok (loc, s) => .ok (leNat (s.bytesAt loc n), s)

/-- Load a group's items. -/
def State.loadGroup (part key : Nat) (base : Word) : State → List SaveField → Except AgentStop State
  | s, [] => .ok s
  | s, f :: fs =>
    match s.loadItem part base f.off f.n with
    | .error e => .error e
    | .ok (x, s) => State.loadGroup part key base (s.mapGroup key (f.put x)) fs

/-- Load items, each handed to `put` with its number. -/
def State.loadEach (part : Nat) (base : Word) (n : Nat) (put : Nat → Nat → State → State) :
    State → List (Nat × Nat) → Except AgentStop State
  | s, [] => .ok s
  | s, (i, off) :: rest =>
    match s.loadItem part base off n with
    | .error e => .error e
    | .ok (x, s) => State.loadEach part base n put (put i x s) rest

/-- R280: the team header: the record, unit, member and type; the barriers; rung and region state; the commands. -/
def State.saveHeader (s : State) (team : Nat) : List (Nat × Nat × Nat) :=
  let t := s.team team
  let record := ((s.launchOf t).map (·.record.toNat)).getD 0
  [(0x00, 8, record), (0x08, 8, t.unit), (0x10, 8, t.member), (0x18, 8, t.ttype)] ++
  ((List.range t.type.bars).map fun b => (0x40 + 8 * b, 8, (t.bars.get 0 b).toNat)) ++
  [(0xC0, 8, t.queryOpen.toNat), (0xC8, 8, t.regSeq), (0xD0, 8, t.lastStatus.toNat)] ++
  ((t.savedCmds.filter (·.kind != .tzero)).take 64).zipIdx.flatMap fun (c, j) =>
    let b := c.bar.getD 0
    [(0x100 + 32 * j, 8, c.progress.toNat), (0x108 + 32 * j, 8, b),
      (0x110 + 32 * j, 8, if c.bar.isSome then (barOf (t.bars.get 0 b)).refs else 0)]

/-- The scratchpad words of a team with their offsets. -/
def spadItems (t : TaskType) : List (Nat × Nat) := (List.range (t.spad * 128)).map fun i => (i, 0x200000 + 8 * i)

/-- The elements of a team's slots, key slot * 4096 + element, at their offsets. -/
def elemItems (t : TaskType) (base slotStride elemStride : Nat) : List (Nat × Nat) :=
  (List.range t.zslots).flatMap fun z => (List.range 4096).map fun e => (z * 4096 + e, base + slotStride * z + elemStride * e)

/-- Change element `e` of slot `z`. -/
def State.mapElem (s : State) (team k : Nat) (f : Elem → Elem) : State :=
  s.mapSlot team (k / 4096) fun x => x.setElem (k % 4096) (f (x.elem (k % 4096)))

/-- R280: everything that the save routine of a team writes. -/
def State.saveImage (s : State) (team : Nat) : List (Nat × Nat × Nat) :=
  let t := s.team team
  let elem := fun (k : Nat) => (t.slot (k / 4096)).elem (k % 4096)
  s.saveHeader team ++
  ((List.range t.type.groups).flatMap fun i => (saveGroup i t.type.regs).map fun f => (f.off, f.n, f.get (s.group (team * 32 + i)))) ++
  ((spadItems t.type).map fun (i, off) => (off, 8, leNat (s.bytesAt (spadLoc team (8 * i)) 8))) ++
  ((elemItems t.type 0x300000 0x4000 4).map fun (k, off) => (off, 4, (elem k).bits.toNat)) ++
  ((elemItems t.type 0x380000 0x2000 1).map fun (k, off) => (off, 1, (elem k).tag.toNat)) ++
  (elemItems t.type 0x381000 0x2000 1).map fun (k, off) => (off, 1, (elem k).abs.toNat)

/-- R279: the restore routines of a team read its slot back. -/
def State.loadImage (s : State) (team : Nat) (base : Word) : Except AgentStop State :=
  let t := s.team team
  let part := t.part
  let groups := (List.range t.type.groups).foldl (fun (r : Except AgentStop State) i =>
    match r with
    | .error e => .error e
    | .ok s => State.loadGroup part (team * 32 + i) base s (saveGroup i t.type.regs)) (.ok s)
  let next := fun (r : Except AgentStop State) (n : Nat) (put : Nat → Nat → State → State) (items : List (Nat × Nat)) =>
    match r with
    | .error e => .error e
    | .ok s => State.loadEach part base n put s items
  let bars := next groups 8 (fun b x s => s.setTeam team { s.team team with bars := SMap.set 0 (s.team team).bars b (BitVec.ofNat 64 x) })
    ((List.range t.type.bars).map fun b => (b, 0x40 + 8 * b))
  let spad := next bars 8 (fun i x s => s.setBytes (spadLoc team (8 * i)) (leBytes 8 x)) (spadItems t.type)
  let bits := next spad 4 (fun k x s => s.mapElem team k fun e => { e with bits := BitVec.ofNat 32 x }) (elemItems t.type 0x300000 0x4000 4)
  let tags := next bits 1 (fun k x s => s.mapElem team k fun e => { e with tag := BitVec.ofNat 6 x }) (elemItems t.type 0x380000 0x2000 1)
  next tags 1 (fun k x s => s.mapElem team k fun e => { e with abs := BitVec.ofNat 8 x }) (elemItems t.type 0x381000 0x2000 1)

end Sys2Proof.Machine
end

