-- ==== Sys2Proof/Machine/Preempt.lean ====
section
/-! DEFINITION. Sys2Proof/Machine/Preempt.lean: pre-emption (R104-R107, R226, R247, R279): the choice of victims, how a team
leaves its core and comes back, and the events PREEMPT, SAVE_COMPLETE and RESTORE. -/

namespace Sys2Proof.Machine

/-! ## Victims (R104-R106) -/

/-- R104, R108: class `k` may pre-empt this team, at an examination at `now`. -/
def mayTake (now k : Nat) (t : Team) : Bool :=
  if k ≤ 1 then 4 ≤ t.cls && t.cls ≤ 7 else k ≤ t.cls && t.cls ≤ 3 && decide (t.lastAdmitNs + 2000000 ≤ now)

/-- R106, R246, R286: the team is not excluded from the choice: a stop broadcast of the debugger has reached none of its
groups and none holds the serial token; a member of a cohort that has retired leaves nothing to stop. -/
def State.takable (s : State) (key : Nat) : Bool :=
  let t := s.team key
  t.phase == .done ||
  (t.phase == .resident && (s.groupsOf key).all fun k =>
    (s.group k).stop != .debug && !(s.group k).asked && (s.part t.part).serialHolder != some k)

/-- R105: the members that come with a victim. -/
def State.cohortOf (s : State) (key : Nat) : List Nat := s.members (s.team key).part (s.team key).cohort

/-- R105: victim `a` is listed before `b`; two that were admitted in one nanosecond go by their keys (log 98). -/
def State.victimBefore (s : State) (k a b : Nat) : Bool :=
  let x := s.team a
  let y := s.team b
  if k ≤ 1 then
    if x.cls = y.cls then decide (y.lastAdmitNs < x.lastAdmitNs) || (x.lastAdmitNs == y.lastAdmitNs && decide (b < a))
    else decide (y.cls < x.cls)
  else decide (x.lastAdmitNs < y.lastAdmitNs) || (x.lastAdmitNs == y.lastAdmitNs && decide (a < b))

/-- R105: the teams of the partition that class `k` may pre-empt on some cores, in their order. -/
def State.victims (s : State) (part k : Nat) (cores : List Nat) : List Nat :=
  sortBy (s.victimBefore k) <| (s.teams.filter fun (key, t) =>
    t.part == part && cores.contains t.core && t.phase == .resident && mayTake s.nsNow.toNat k t &&
    (s.cohortOf key).all s.takable).map (·.1)

/-- R280: save slots of the partition that no team holds. -/
def State.freeSaveSlots (s : State) (part : Nat) : List Nat :=
  (List.range (field (s.part part).dbg.saveSlots 0 16)).filter fun i =>
    !(s.teams.any fun (_, t) => t.part == part && t.saveSlot == some i)

/-- R105, R280: the shortest prefix of `rest`, after the victims `got`, that makes the unit fit; a team whose cohort finds
no save slots is left out. -/
def State.prefixFor (s : State) (fits : List Nat → Bool) (slots : Nat) (got : List Nat) : List Nat → Option (List Nat)
  | [] => none
  | v :: vs =>
    let more := got ++ (s.cohortOf v).filter fun m => (s.team m).phase == .resident && !got.contains m
    if slots < more.length then s.prefixFor fits slots got vs
    else if fits more then some more
    else s.prefixFor fits slots more vs

/-- R105: the candidate with the fewest victims: its first core and the victims. -/
def State.chooseVictims (s : State) (part die k : Nat) (ty : TaskType) : Option (Nat × List Nat) :=
  let slots := (s.freeSaveSlots part).length
  (candidateCores die ty).foldl (fun (best : Option (Nat × List Nat)) cores =>
    let fits := fun vs => (s.fitCores part vs ty false cores).isSome || (k == 0 && (s.fitCores part vs ty true cores).isSome)
    match s.prefixFor fits slots [] (s.victims part k cores) with
    | none => best
    | some vs =>
      match best with
      | some b => if vs.length < b.2.length then some (cores.headD 0, vs) else best
      | none => some (cores.headD 0, vs)) none

/-! ## Leaving the core -/

/-- R226: the oldest speculative region that has not committed. -/
def Team.oldestSpec (t : Team) : Option Region := (t.pending.toList ++ t.openRegion.toList).find? (·.spec)

/-- R247, R275: a group stops; its open transactions abort with PREEMPT. -/
def Group.leave (g : Group) : Group :=
  let g := if g.tx.active = 0 then g else g.abortLanes g.tx.active 7 0
  { g.flushIssued with stop := .leaving }

/-- R279 steps 1-4: a victim stops. -/
def State.beginSave (s : State) (key : Nat) : State :=
  let t := s.team key
  let p := s.part t.part
  let slot := (s.freeSaveSlots t.part).headD 0
  let c := s.core t.core
  let s := s.traceEvent t.part (dieOf t.core) 0x15 (s.gid0 key) none
  let s := s.setCore t.core { c with teamQ := c.teamQ.filter (· != key) }
  let s := (s.settleHeld t.core false (·.team == key)).settleHeld t.core true (·.team == key)
  let s := s.setPart t.part { s.part t.part with nextPreempt := p.nextPreempt + 1 }
  let s := foldState (s.groupsOf key) s fun k s => (s.withdrawToken t.part k).mapGroup k Group.leave
  let s := s.setTeam key { s.team key with
    phase := .saving, preempts := min 65535 (t.preempts + 1), preemptSeq := p.nextPreempt, saveSlot := some slot }
  match t.oldestSpec with
  | some r => if t.restart.isSome && !t.pending.any (·.spec) then s else s.abortRegion key r false
  | none => s

/-- R228: a trip or a missing line of a victim is handled before its pre-emption. -/
def State.regionsQuiet (s : State) (key : Nat) : Bool :=
  let t := s.team key
  (t.openRegion.toList ++ t.pending.toList).all fun r => r.trip.isNone && !r.starved

/-- What heads a class, as the beneficiary of a pre-emption. -/
def Head.type (s : State) (part : Nat) : Head → AgentRes (Option (TaskType × Option Nat × Word))
  | .team key => .ok (some ((s.team key).type, some key, 0), s)
  | .launch l _ =>
    if l.finished || l.units ≤ l.next then .ok (none, s)
    else
      match s.readType part l.ttype with
      | .error e => .error e
      | .ok (ty, s) => .ok (some (ty, none, l.record), s)
  | .net _ | .empty _ _ => .ok (none, s)

/-- PREEMPT (R104-R107): a die's dispatcher pre-empts for the head of a class that does not fit there. -/
def execPreempt (part die cls : Nat) (s : State) : Res :=
  let p := s.part part
  if !s.dispatching part || 4 ≤ die || 4 ≤ cls || p.holds.any (·.cls == cls) then .fault .notEnabled
  else
    match s.headOf part cls with
    | .error e => s.agentStep part (.error e)
    | .ok (none, _) => .fault .notEnabled
    | .ok (some h, s) =>
      match Head.type s part h with
      | .error e => s.agentStep part (.error e)
      | .ok (none, _) => .fault .notEnabled
      | .ok (some (ty, team, record), s) =>
        if (s.placeOn part die cls [] ty).isSome then .fault .notEnabled
        else
          match s.chooseVictims part die cls ty with
          | none => .fault .notEnabled
          | some (core, victims) =>
            if !victims.all s.regionsQuiet then .fault .notEnabled
            else
              let place := (s.heldPlace part { cls, team, record, victims, core } ty).getD []
              let s := foldState victims s fun k s => s.beginSave k
              let p := s.part part
              .next (s.setPart part { p with holds := p.holds ++ [{ cls, team, record, victims, core, place }] })

/-! ## The save (R279 steps 5-7) -/

/-- R226, R279: what a team in a region stands at when it is saved. -/
def State.saveRegion (s : State) (key : Nat) : State :=
  let t := s.team key
  match t.restart, t.openRegion with
  | some ns, some r => if ns && t.pending.isSome then s else s.toCheckpoint key r ns
  | _, _ => s

/-- R107: the number of a unit's pre-emption, which its members that had not retired share in their order. -/
def State.unitSeq (s : State) (cohort : Nat) : Nat :=
  let saved := (s.cohortOf cohort).filter fun m => (s.team m).phase == .saved
  (saved.map fun m => (s.team m).preemptSeq).foldl min (s.team (saved.headD cohort)).preemptSeq

/-- R107: a unit joins the re-admit list of its class, in the order of its pre-emption, once every member is saved. -/
def State.joinReadmit (s : State) (key : Nat) : State :=
  let t := s.team key
  if !((s.cohortOf key).all fun m => (s.team m).phase == .saved || (s.team m).phase == .done) then s
  else
    let p := s.part t.part
    let before := fun a b => decide (s.unitSeq a ≤ s.unitSeq b)
    s.setPart t.part { p with readmit := p.readmit.put t.cls (insertBy before t.cohort (p.readmit.get [] t.cls)) }

/-- R276, R279: a store of the save routine, or a load of the restore routine, fails, and its group stops; the record names
the group where it stands. -/
def State.saveFault (s : State) (key : Nat) (cause : BitVec 8) (addr : Word) : State :=
  let g := s.group (key * 32)
  (s.raiseHalt g.part cause (s.groupRecord g 6 cause 0 addr 32)).mapGroup (key * 32) fun g => { g with stop := .halt }

/-- R279 steps 5 and 6: the engines drop the team's commands, which stay with it, and its save routine stores its state. -/
def State.storeTeam (s : State) (team : Nat) : Except (AgentStop × State) State :=
  let t := s.team team
  let s := s.saveRegion team
  let c := s.core t.core
  let cmds := (s.commandsOf team).map fun x => { x with opA := [], opB := [] }
  let s := s.setCore t.core { c with copyQ := c.copyQ.filter (·.team != team), matQ := c.matQ.filter (·.team != team) }
  let s := s.setTeam team { s.team team with savedCmds := cmds }
  State.saveItems t.part ((s.part t.part).saveSlotAddr (t.saveSlot.getD 0)) s (s.saveImage team)

/-- SAVE_COMPLETE (R105, R107, R279): a victim's counters have drained, its groups have written its save slot, and its
resources free. -/
def execSaveComplete (team : Nat) (s : State) : Res :=
  let t := s.team team
  let p := s.part t.part
  if t.phase ≠ .saving || p.state ≠ .run || p.halt.isSome || !s.drained (s.groupsOf team) then .fault .notEnabled
  else
    match s.storeTeam team with
    | .error (.wait, _) => .fault .notEnabled
    | .error (.fail x a, s') => .next ({ s' with cores := s.cores }.saveFault team x a)
    | .ok s => .next ((s.setTeam team { s.team team with phase := .saved }).joinReadmit team)

/-! ## The restore -/

/-- R226: at re-admission a region opens afresh, without a lookup: non-speculatively where its checkpoint has no
shadow lines (R204). -/
def State.reopen (s : State) (key : Nat) : State :=
  let t := s.team key
  match t.openRegion with
  | some r =>
    if r.spec && t.restart.isNone && decide (2048 < s.shadowLines t.core) then
      s.setTeam key { t with openRegion := some (r.newPass true) }
    else s
  | none => s

/-- R279: the saved commands resume on the new core, in their order. -/
def State.resumeCmds (s : State) (key : Nat) : State :=
  let t := s.team key
  let cmds := t.savedCmds.map fun x => { x with gid := s.gid (s.group (key * 32 + x.group)) }
  let c := s.core t.core
  (s.setCore t.core { c with copyQ := c.copyQ ++ cmds.filter fun x => !x.kind.onMatrix
                             matQ := c.matQ ++ cmds.filter fun x => x.kind.onMatrix }).setTeam key { t with savedCmds := [] }

/-- R279: one team comes back at a place. -/
def State.readmitTeam (s : State) (key core : Nat) (allot : Allot) (reserved : Bool) : Except AgentStop State :=
  let t := s.team key
  let base := (s.part t.part).saveSlotAddr (t.saveSlot.getD 0)
  match s.loadImage key base with
  | .error e => .error e
  | .ok s =>
    let t := s.team key
    let s := s.seatTeam key { t with
      core, allot, reserved, phase := .resident, lastAdmitNs := s.nsNow.toNat, marked := false, saveSlot := none } false
    let s := (s.reopen key).resumeCmds key
    .ok (foldState (s.groupsOf key) s fun k s =>
      (s.mapGroup k fun g => { g.wake with stop := .none, skid := 0 }).resumeCall k)

/-- Group 0 of a team stands on the core and in the seat that a place gives it. -/
def State.seatFirst (s : State) (key core : Nat) (allot : Allot) : State :=
  let (port, slot) := allot.seats.headD (0, 0)
  (s.setTeam key { s.team key with core }).mapGroup (key * 32) fun g => { g with port, slot }

/-- R97, R276: the members of a unit come back together; or what stops one of them, in the new place of its group 0. -/
def State.readmitAll (s : State) (cohort : Nat) (place : Place) : Except (AgentStop × Nat × State) State :=
  (s.members (s.team cohort).part cohort).foldl (fun (r : Except (AgentStop × Nat × State) State) key =>
    match r with
    | .error e => .error e
    | .ok s' =>
      match place[(s.team key).member]? with
      | some (core, allot, reserved) =>
        if (s.team key).phase = .saved then
          (s'.readmitTeam key core allot reserved).mapError fun e => (e, key, s.seatFirst key core allot)
        else .ok s'
      | none => .ok s') (.ok s)

/-- R107: the unit at the head of a re-admit list leaves it, and with it the hold that was made for it. -/
def State.unlist (s : State) (part die key : Nat) : State :=
  let s := s.dropHold part die
  let p := s.part part
  let cls := (s.team key).cls
  s.setPart part { p with readmit := p.readmit.put cls ((p.readmit.get [] cls).erase key) }

/-- RESTORE (R97, R107, R226, R279): a die's dispatcher re-admits the unit at the head of a re-admit list. -/
def execRestore (part die : Nat) (s : State) : Res :=
  if !s.dispatching part || 4 ≤ die then .fault .notEnabled
  else
    match s.examine part die with
    | .error e => s.agentStep part (.error e)
    | .ok (some (.readmit key place), s) =>
      let s := s.unlist part die key
      match s.readmitAll key place with
      | .ok s' => .next s'
      | .error (.wait, _, _) => .fault .notEnabled
      | .error (.fail c a, member, s') => .next (s'.saveFault member c a)
    | .ok _ => .fault .notEnabled

end Sys2Proof.Machine
end

