-- ==== Sys2Proof/Machine/Network.lean ====
section
/-! DEFINITION. Sys2Proof/Machine/Network.lean: the network engine (R86-R90): its operations with their packets,
acknowledgements and timeouts, the operations that arrive from other packages, and the counter aperture's decrement,
which a remote decrement shares with a host write (R48, R49). -/

namespace Sys2Proof.Machine

/-! ## The counter aperture (R48, R49) -/

/-- What an aperture word comes to. -/
inductive Aperture where
  /-- Beyond CAP_LEN, or an entry of zero. -/
  | unmapped
  /-- The entry or the counter fails translation, or the counter is a system address. -/
  | failed
  /-- The entry has a non-zero reserved field; its address. -/
  | reserved (addr : Word)
  /-- The counter's address and location. -/
  | counter (va : Word) (loc : Nat)
  /-- The access waits for a migration. -/
  | busy
  deriving DecidableEq, Repr

/-- R48, R49: the counter that aperture word `i` names, and the state with the walker's marks.  A map entry at a system
address is read there (log 78). -/
def State.aperture (s : State) (part i : Nat) (need : Need) : Aperture × State :=
  let p := s.part part
  if p.page.capLen.toNat ≤ i then (.unmapped, s)
  else
    let ea := at_ (field p.page.capMap 3 54) 3 + BitVec.ofNat 64 (8 * i)
    match s.agentWord part ea with
    | .error .wait => (.busy, s)
    | .error (.fail c a) => (.failed, s.touchFail part c a.toNat)
    | .ok (e, s) =>
      if e = 0 then (.unmapped, s)
      else if field e 57 7 ≠ 0 || field e 0 3 ≠ 0 then (.reserved ea, s)
      else
        match s.agentAccess part e.toNat 8 need with
        | .error none => (.busy, s)
        | .error (some c) => (.failed, s.touchFail part c e.toNat)
        | .ok (loc, t, s) => if t.isSystem then (.failed, s) else (.counter e loc, s)

/-- R6, R48, R276: the Apex controller halts the partition over a map entry. -/
def State.mapHalt (s : State) (part : Nat) (ea : Word) : State :=
  s.raiseHalt part causeIllegalOp (s.agentRecord 5 causeIllegalOp ea 0 0)

/-- R49: an aperture write of `n` to word `i`. -/
def State.apertureWrite (s : State) (part i : Nat) (n : Word) : Res :=
  match s.aperture part i .write with
  | (.unmapped, s) => .next (s.partErr part 0)
  | (.failed, s) => .next (s.partErr part 2)
  | (.reserved ea, s) => .next (s.mapHalt part ea)
  | (.busy, _) => .fault .notEnabled
  | (.counter va loc, s) =>
    if n = 0 then .next s else s.agentStep part (s.decrement part va loc n)

/-! ## Operations (R87-R89) -/

/-- Bytes of a packet's payload (R26). -/
def packetBytes : Nat := 4096

/-- LEN, and the width of an atomic. -/
def netLen (w : List Word) : Nat := field (dword w 5) 0 32

/-- Bytes of an atomic's operand. -/
def netWidth (w : List Word) : Nat := if bit (dword w 5) 48 then 8 else 4

/-- DELIV. -/
def netDeliv (w : List Word) : Nat := field (dword w 1) 20 2

/-- R89: packets of an operation. -/
def netPackets (kind : NetKind) (w : List Word) : Nat :=
  if kind = .atomic then 1 else max 1 ((netLen w + packetBytes - 1) / packetBytes)

/-- R89: first byte and number of bytes of packet `i`. -/
def netPiece (w : List Word) (i : Nat) : Nat × Nat := (packetBytes * i, min packetBytes (netLen w - packetBytes * i))

/-- R281: the operation code. -/
def NetKind.code : NetKind → Nat
  | .put => 8
  | .get => 9
  | .atomic => 10

/-- R281: the progress word of an operation. -/
def netProgress (kind : NetKind) (done : Nat) : Word := word [at_ 3 60, at_ kind.code 56, at_ 1 51, at_ done 0]

/-- Packets acknowledged. -/
def NetOp.done (o : NetOp) : Nat := o.acked.length

/-- R276, R281: the stop record of an operation. -/
def State.netRecord (s : State) (kind : Nat) (cause : BitVec 8) (addr info prog : Word) : StopRecord :=
  { src := 3, kind, gid := 0
    words := [word [at_ cause.toNat 56, at_ 3 52, at_ kind 48], 0, 0, 0, addr, info, prog, s.nsNow] }

/-- R276: the network engine halts the partition. -/
def State.netHalt (s : State) (part : Nat) (cause : BitVec 8) (addr info prog : Word) : State :=
  s.raiseHalt part cause (s.netRecord 0 cause addr info prog)

/-- Kind of a network record. -/
def netKindOf (w : List Word) : NetKind :=
  match recKind w with
  | 3 => .put
  | 4 => .get
  | _ => .atomic

/-- Put a message on the wire. -/
def State.sendNet (s : State) (m : NetMsg) : State := { s with pkg := { s.pkg with sent := m :: s.pkg.sent } }

/-- Change an operation in flight. -/
def State.mapNetOp (s : State) (part id : Nat) (f : NetOp → NetOp) : State :=
  let p := s.part part
  s.setPart part { p with netOps := p.netOps.map fun o => if o.id = id then f o else o }

/-- An operation in flight. -/
def State.netOp (s : State) (part id : Nat) : Option NetOp := (s.part part).netOps.find? (·.id == id)

/-- R89, R90: every packet is acknowledged: the remote decrement is sent and the record completes. -/
def State.finishNet (s : State) (part : Nat) (o : NetOp) : Except AgentStop State :=
  let p := s.part part
  let s := s.setPart part { p with netOps := p.netOps.filter (·.id != o.id) }
  let rctr := dword o.words 6
  let s := if field rctr 48 16 = 0 then s else s.sendNet (.decrement o.endpoint (field rctr 0 16) (field rctr 48 16))
  match s.agentLoc part o.record 128 .write with
  | .error e => .error e
  | .ok (loc, s) => .ok (s.finishRecord part o.record loc o.words)

/-! ## Transfers: each aligned eight-byte part is a point of its own (R89) -/

/-- The aligned parts, of at most eight bytes, of `n` bytes at `va`: offset and bytes; the first argument bounds them. -/
def moveParts (va : Nat) : Nat → Nat → Nat → List (Nat × Nat)
  | 0, _, _ => []
  | fuel + 1, off, n =>
    if n ≤ off then []
    else
      let k := min (n - off) (8 - (va + off) % 8)
      (off, k) :: moveParts va fuel (off + k) n

/-- A transfer of `n` bytes at `addr`. -/
def netMove (addr : Word) (n : Nat) (data : Option (List Byte)) (fin : NetEnd) : NetMove :=
  { addr, data, todo := moveParts addr.toNat (n / 8 + 2) 0 n, fin }

/-- The bytes that a transfer has read, in their order. -/
def NetMove.bytes (m : NetMove) : List Byte := (sortBy (fun a b => decide (a.1 ≤ b.1)) m.got).flatMap (·.2)

/-- R58, R89: an arriving access to a system page fails: it is performed at home slices, which hold no system line. -/
def remoteFail (va : Word) : AgentStop := .fail causePageRange va

/-- The transfer belongs to an operation that has arrived, or to a request of the host on its window, neither of which reaches
a system page (R46, R58). -/
def NetEnd.remote : NetEnd → Bool
  | .answer _ | .window => true
  | _ => false

/-- One part of a transfer is performed. -/
def State.movePart (s : State) (part : Nat) (m : NetMove) (x : Nat × Nat) : Except AgentStop (NetMove × State) :=
  let va := m.addr + BitVec.ofNat 64 x.1
  match s.agentAccess part va.toNat 1 (if m.data.isSome then .write else .read) with
  | .error none => .error .wait
  | .error (some c) => .error (.fail c va)
  | .ok (loc, t, s) =>
    if m.fin.remote && t.isSystem then .error (remoteFail va)
    else
      let s := s.holdLine part t m.data.isSome
      let rest := m.todo.erase x
      match m.data with
      | some bs => .ok ({ m with todo := rest }, s.commitBytes loc ((bs.drop x.1).take x.2))
      | none => .ok ({ m with todo := rest, got := m.got ++ [(x.1, s.bytesAt loc x.2)] }, s)

/-- Parts of a transfer, in their order. -/
def State.moveAll (part : Nat) : State → NetMove → List (Nat × Nat) → Except AgentStop (NetMove × State)
  | s, m, [] => .ok (m, s)
  | s, m, x :: xs =>
    match s.movePart part m x with
    | .error e => .error e
    | .ok (m, s) => State.moveAll part s m xs

/-- R89, R281: packet `pkt` of an operation is acknowledged, with these bytes. -/
def State.landNet (s : State) (part op pkt : Nat) (data : List Byte) : Res :=
  match s.netOp part op with
  | none => .next s
  | some o =>
    let o := { o with acked := o.acked.put pkt data }
    let s := s.mapNetOp part op fun _ => o
    if o.done < o.packets then .next s else s.agentStep part (s.finishNet part o)

/-- R89: packet `pkt` of an operation is sent now. -/
def State.stampPacket (s : State) (part op pkt : Nat) : State :=
  s.mapNetOp part op fun o => { o with sent := o.sent.put pkt s.nsNow.toNat }

/-- R89: packet `pkt` of an operation has been acknowledged. -/
def State.unstamp (s : State) (part op pkt : Nat) : State := s.mapNetOp part op fun o => { o with sent := SMap.del o.sent pkt }

/-- R46, R89: what follows a transfer whose parts have all been performed. -/
def State.endMove (s : State) (part : Nat) (m : NetMove) : Res :=
  match m.fin with
  | .window => .next (if m.data.isSome then s else { s with pkg := { s.pkg with hostReply := m.bytes } })
  | .answer peer => .next (s.sendNet (.ack peer m.bytes))
  | .send op pkt =>
    .next (match s.netOp part op with
      | some o =>
        (s.stampPacket part op pkt).sendNet
          (.data o.endpoint op pkt (dword o.words 4 + BitVec.ofNat 64 (netPiece o.words pkt).1) m.bytes (netDeliv o.words))
      | none => s)
  | .land op pkt => s.landNet part op pkt (m.data.getD [])

/-- The bytes of a transfer. -/
def NetMove.len (m : NetMove) : Nat := ((m.got.map (·.2.length)) ++ m.todo.map (·.2)).sum

/-- R46, R89: a transfer whose part fails: the arriving operation is refused, the rest of the host's write is dropped and its
read answered with ones, or the partition halts; `s` is the state before. -/
def State.failMove (s : State) (part : Nat) (m : NetMove) : AgentStop → Res
  | .wait => .fault .notEnabled
  | .fail c a =>
    match m.fin with
    | .window =>
      let s := (s.touchFail part c a.toNat).partErr part 4
      .next (if m.data.isSome then s else { s with pkg := { s.pkg with hostReply := List.replicate m.len 0xFF } })
    | .answer peer => .next (s.sendNet (.nack peer))
    | .send op _ | .land op _ =>
      let prog := ((s.netOp part op).map fun o => netProgress o.kind o.done).getD 0
      .next (s.netHalt part c a 0 prog)

/-- R89: a transfer is performed at once, or, where the turn says so, part by part. -/
def State.runMove (s : State) (part : Nat) (m : NetMove) : Res :=
  if s.limit = some 0 && !m.todo.isEmpty then
    let p := s.part part
    .next (s.setPart part { p with netMoves := p.netMoves ++ [m] })
  else
    match State.moveAll part s m m.todo with
    | .error e => s.failMove part m e
    | .ok (m, s) => s.endMove part m

/-- R89: packets of one operation are sent in order under ROD: `m` comes before packet `pkt` of operation `op`. -/
def NetMove.ahead (m : NetMove) (op pkt : Nat) : Bool :=
  match m.fin with
  | .send o q => o == op && decide (q < pkt)
  | _ => false

/-- R89: the last part of a transfer waits where packets go in order and an earlier one is still to be sent. -/
def State.moveOrder (s : State) (part : Nat) (m : NetMove) : Bool :=
  match m.fin with
  | .send op pkt =>
    decide (2 ≤ m.todo.length) || !((s.netOp part op).any fun o => netDeliv o.words == 1) || !((s.part part).netMoves.any fun x => x.ahead op pkt)
  | _ => true

/-- R46, R89: part `x` of a transfer is performed: what becomes of it, where `put` gives the state without it, or with what is
left of it. -/
def State.moveStep (s : State) (part : Nat) (m : NetMove) (x : Nat × Nat) (put : State → Option NetMove → State) : Res :=
  match s.movePart part m x with
  | .error e => (put s none).failMove part m e
  | .ok (m, s) => if m.todo.isEmpty then (put s none).endMove part m else .next (put s (some m))

/-- R89: part `j` of transfer `i` is performed. -/
def State.moveTurn (s : State) (part i j : Nat) : Res :=
  let p := s.part part
  match p.netMoves[i]?, (p.netMoves[i]?).bind fun m => m.todo[j]? with
  | some m, some x =>
    if !s.moveOrder part m then .fault .notEnabled
    else
      s.moveStep part m x fun s m =>
        s.setPart part { s.part part with netMoves := match m with
          | some m => p.netMoves.set i m
          | none => p.netMoves.eraseIdx i }
  | _, _ => .fault .notEnabled

/-- R46: part `j` of the host's request `i` on its window is performed: those of a write in their order. -/
def State.windowTurn (s : State) (part i j : Nat) : Res :=
  let p := s.part part
  match p.winMoves[i]?, (p.winMoves[i]?).bind fun m => m.todo[j]? with
  | some m, some x =>
    if m.data.isSome && j != 0 then .fault .notEnabled
    else
      s.moveStep part m x fun s m =>
        s.setPart part { s.part part with winMoves := match m with
          | some m => p.winMoves.set i m
          | none => p.winMoves.eraseIdx i }
  | _, _ => .fault .notEnabled

/-! ## Starting an operation -/

/-- R89: send packet `i` of an operation, whose source bytes are read first. -/
def State.sendPacket (s : State) (part : Nat) (o : NetOp) (i : Nat) : Res :=
  let w := o.words
  let (off, n) := netPiece w i
  match o.kind with
  | .put => s.runMove part (netMove (dword w 3 + BitVec.ofNat 64 off) n none (.send o.id i))
  | .get => .next ((s.stampPacket part o.id i).sendNet (.read o.endpoint o.id i (dword w 4 + BitVec.ofNat 64 off) n (netDeliv w)))
  | .atomic =>
    .next ((s.stampPacket part o.id i).sendNet
      (.atomic o.endpoint o.id (dword w 4) (field (dword w 5) 42 3) (netWidth w) (dword w 2) (dword w 12) (netDeliv w)))

/-- Send the packets from `i` on, in order; the first argument counts them. -/
def State.sendPackets (part : Nat) (o : NetOp) : Nat → State → Nat → Res
  | 0, s, _ => .next s
  | n + 1, s, i =>
    match s.sendPacket part o i with
    | .next s => State.sendPackets part o n s (i + 1)
    | r => r


/-- R87: the endpoint entry `i`, or none where a reserved field is not zero. -/
def endpointOk (w : List Word) (four : Bool) : Bool :=
  field (dword w 2) 44 20 == 0 && dword w 3 == 0 && !(four && field (dword w 2) 40 4 != 0)

/-- R87-R89: the operation of the record at `loc` starts. -/
def State.beginNet (s : State) (part : Nat) (rec : Word) (loc : Nat) (w : List Word) : Res :=
  let s := s.setRecordState loc 2
  let kind := netKindOf w
  let prog := netProgress kind 0
  let ea := ctlAt (0x8000 + 32 * field (dword w 5) 32 10)
  match s.agentLoc part ea 32 .read with
  | .error .wait => .fault .notEnabled
  | .error (.fail c a) => .next (s.netHalt part c a 0 prog)
  | .ok (el, s) =>
    let e := (List.range 4).map fun i => s.wordAt (el + 8 * i)
    if !endpointOk e (s.pkg.netActive == 1) then .next (s.netHalt part causeIllegalOp ea 0 prog)
    else if field (dword e 2) 36 8 = 0 then .next (s.netHalt part causeNetFail rec 0 prog)
    else
      let p := s.part part
      let o : NetOp := { id := p.nextLaunch, record := rec, kind, words := w, packets := netPackets kind w, endpoint := e }
      State.sendPackets part o o.packets (s.setPart part { p with nextLaunch := p.nextLaunch + 1, netOps := p.netOps ++ [o] }) 0

/-- NET_OPERATION (R87-R89): the network engine starts the operation at the head of its queue.  Where software has rewritten
the record meanwhile (R72), the words that stand there decide: one that asks for no network operation completes, or goes to
the ready queue of its class (log 99). -/
def execNetOperation (part : Nat) (s : State) : Res :=
  let p := s.part part
  match p.netQ with
  | [] => .fault .notEnabled
  | rec :: rest =>
    if !s.dispatching part then .fault .notEnabled
    else
      let s := s.setPart part { p with netQ := rest }
      match s.agentLoc part rec 128 .write with
      | .error .wait => .fault .notEnabled
      | .error (.fail c a) => .next (s.netHalt part c a 0 0)
      | .ok (loc, s) =>
        let w := s.recordWords loc
        if !recordOk w then .next (s.netHalt part causeIllegalOp rec 0 (netProgress (netKindOf w) 0))
        else if recKind w = 0 || emptyRange w then .next (s.finishRecord part rec loc w)
        else if recKind w ≤ 2 then s.agentStep part (s.pushRecord part (recClass w) rec)
        else s.beginNet part rec loc w

/-- R89: the bytes that the answer to packet `i` carries. -/
def NetOp.answerLen (o : NetOp) (i : Nat) : Nat :=
  match o.kind with
  | .put => 0
  | .get => (netPiece o.words i).2
  | .atomic => netWidth o.words

/-- R89: packet `pkt` of an operation may be acknowledged with `data`: under ROD in order; and once, but under RUDI again
with the same bytes. -/
def NetOp.mayAck (o : NetOp) (pkt : Nat) (data : List Byte) : Bool :=
  match SMap.find? o.acked pkt with
  | some bs => netDeliv o.words == 2 && bs == data
  | none => netDeliv o.words != 1 || pkt == o.done

/-- NET_ACK (R26, R89): the acknowledgement or answer to packet `pkt` of operation `id` arrives; `ok` is false where the
remote refuses or fails it. -/
def execNetAck (part id pkt : Nat) (ok : Bool) (data : List Byte) (s : State) : Res :=
  match (s.part part).netOps.find? (·.id == id) with
  | none => .fault .notEnabled
  | some o =>
    if !s.dispatching part || o.packets ≤ pkt || (ok && !o.mayAck pkt data) || (!ok && (SMap.find? o.acked pkt).isSome) ||
        (ok && data.length ≠ o.answerLen pkt) || ((s.part part).netMoves.any fun m => m.fin == .send id pkt || m.fin == .land id pkt) then
      .fault .notEnabled
    else if !ok then .next (s.netHalt part causeNetFail o.record 1 (netProgress o.kind o.done))
    else
      (s.unstamp part id pkt).runMove part
        (netMove (dword o.words 3 + BitVec.ofNat 64 (netPiece o.words pkt).1) data.length (some data) (.land id pkt))

/-- R89: some packet of an operation was sent 16 ms ago or more and has not been acknowledged. -/
def NetOp.overdue (o : NetOp) (now : Nat) : Bool := o.sent.any fun x => decide (x.2 + 16000000 ≤ now)

/-- NET_ACK_TIMEOUT (R89): a packet has not been acknowledged within 16 ms. DESIGN CHOICE: the 16 ms are read on the
nanosecond counter (log 106). -/
def execNetAckTimeout (part id : Nat) (s : State) : Res :=
  match (s.part part).netOps.find? (·.id == id) with
  | none => .fault .notEnabled
  | some o =>
    if !s.dispatching part || !o.overdue s.nsNow.toNat then .fault .notEnabled
    else .next (s.netHalt part causeNetFail o.record 2 (netProgress o.kind o.done))

/-! ## Arrivals (R86, R89, R90) -/

/-- R86: the partition in RUN with this identity; one whose halt line is raised is none (log 83). -/
def State.netTarget (s : State) (job epid : Nat) : Option Nat :=
  let id := word [at_ (epid % 4096) 24, at_ (job % 2 ^ 24) 0]
  if id = 0 then none
  else (List.range 8).find? fun p => (s.part p).state == .run && (s.part p).halt.isNone && (s.part p).netid == id

/-- R88: the new value of a network atomic of `n` bytes: CAS compares with OPND1 and writes OPND0. -/
def netAtomic (aop n old x y : Nat) : Nat :=
  match aop with
  | 0 => (old + x) % 2 ^ (8 * n)
  | 1 => x
  | 2 => if old = y then x else old
  | 3 => old &&& x
  | 4 => old ||| x
  | _ => old ^^^ x

/-- R88, R89: an arriving atomic, one point at its home slice: the old value. -/
def State.remoteAtomic (s : State) (part : Nat) (raddr : Word) (aop n : Nat) (x y : Word) : AgentRes (List Byte) :=
  match s.agentAccess part raddr.toNat n .write with
  | .error none => .error .wait
  | .error (some c) => .error (.fail c raddr)
  | .ok (loc, t, s) =>
    if t.isSystem || 6 ≤ aop then .error (remoteFail raddr)
    else
      let old := s.bytesAt loc n
      .ok (old, s.commitBytes loc (leBytes n (netAtomic aop n (leNat old) (x.toNat % 2 ^ (8 * n)) (y.toNat % 2 ^ (8 * n)))))

/-- R89: some page of an arriving access fails; the first argument bounds the pages. -/
def State.pagesFail (s : State) (part : Nat) (need : Need) : Nat → Word → Nat → Bool
  | 0, _, _ => false
  | fuel + 1, va, n =>
    if n = 0 then false
    else
      let k := min n (4096 - va.toNat % 4096)
      (match s.agentAccess part va.toNat 1 need with
      | .error x => x.isSome
      | .ok (_, t, _) => t.isSystem) || s.pagesFail part need fuel (va + BitVec.ofNat 64 k) (n - k)

/-- R89: an arriving transfer, of which no byte is performed where a page of it fails. -/
def State.remoteMove (s : State) (part peer : Nat) (raddr : Word) (n : Nat) (data : Option (List Byte)) : Res :=
  if s.pagesFail part (if data.isSome then .write else .read) (n / 4096 + 2) raddr n then .next (s.sendNet (.nack peer))
  else s.runMove part (netMove raddr n data (.answer peer))

/-- NET_INCOMING (R86, R89): an operation arrives, and is performed and acknowledged, or refused; in recovery nothing answers
(R36). -/
def execNetIncoming (job epid peer : Nat) (raddr : Word) (req : NetRequest) (s : State) : Res :=
  if s.pkg.recovery then .next s
  else
    match s.netTarget job epid with
    | none => .next (s.sendNet (.nack peer))
    | some part =>
      match req with
      | .put bs => s.remoteMove part peer raddr bs.length (some bs)
      | .get n => s.remoteMove part peer raddr n none
      | .atomic aop wide x y =>
        match s.remoteAtomic part raddr aop (if wide then 8 else 4) x y with
        | .error .wait => .fault .notEnabled
        | .error (.fail _ _) => .next (s.sendNet (.nack peer))
        | .ok (bs, s) => .next (s.sendNet (.ack peer bs))

/-- NET_REMOTE_DECREMENT (R90): a remote decrement arrives, and is applied as an aperture write of DEC. -/
def execNetRemoteDecrement (job epid peer word dec : Nat) (s : State) : Res :=
  if s.pkg.recovery then .next s
  else
    match s.netTarget job epid with
    | none => .next (s.sendNet (.nack peer))
    | some part => s.apertureWrite part word (BitVec.ofNat 64 dec)

end Sys2Proof.Machine
end

