-- ==== Sys2Proof/Machine/Stops.lean ====
section
/-! DEFINITION. Sys2Proof/Machine/Stops.lean: how a partition halts and what it leaves (R274-R278, R287): the stops of groups
and engines, snapshots, dumps, and the events ENGINE_STOP, SNAPSHOT_LATCH, DUMP_WRITE and PARTITION_HALTED. -/

namespace Sys2Proof.Machine

/-! ## What a partition has running -/

/-- The groups of a partition that stand on a core and have not retired, by key. -/
def State.groupsIn (s : State) (part : Nat) : List Nat :=
  (s.groups.filter fun (k, g) => g.part == part && !g.retired && s.present k).map (·.1)

/-- The accepted engine commands of a partition. -/
def State.commandsIn (s : State) (part : Nat) : List Cmd :=
  (s.cores.flatMap fun (_, c) => c.copyQ ++ c.matQ).filter (·.part == part)

/-- R274: everything of a partition has stopped. -/
def State.allStopped (s : State) (part : Nat) : Bool :=
  let p := s.part part
  let engines := (p.halt.map (·.engines)).getD []
  (s.groupsIn part).all (fun k => (s.group k).stop == .halt) && (s.commandsIn part).all (·.stopped) &&
  p.netMoves.isEmpty && (p.netOps.isEmpty || engines.contains 1) && engines.contains 0

/-! ## Stops -/

/-- Add records to the halt of a partition. -/
def State.addHalt (s : State) (part : Nat) (f : Halt → Halt) : State :=
  let p := s.part part
  s.setPart part { p with halt := p.halt.map f }

/-- R274, R246: a group stops by the halt line. -/
def State.stopHalted (s : State) (key : Nat) (cause : BitVec 8) : State :=
  let s := s.endStep key
  let g := s.group key
  let r := s.groupRecord g 1 cause 0 0 0
  let s := (s.withdrawToken g.part key).releaseToken g.part key
  let s := s.mapGroup key fun g => { g with stop := .halt, asked := false, stepping := none, stepOver := false, skid := 0 }
  s.addHalt g.part fun h => { h with records := h.records ++ [r] }

/-- R275, R285: a group stops by a stop broadcast. -/
def State.stopAsked (s : State) (key : Nat) : State :=
  let g := s.group key
  let r := s.groupRecord g 2 0 0 0 0
  (s.mapGroup key fun g => { g.flushIssued with stop := .debug, asked := false, skid := 0 }).addStop g.part key r

/-- R274, R281: the commands of a partition on an engine stop at block boundaries; a TZERO has no progress to record. -/
def State.stopEngine (s : State) (part core : Nat) (matrix : Bool) (h : Halt) : Res :=
  let cmds := ((s.core core).queue matrix).filter fun c => c.part == part && !c.stopped
  if cmds.isEmpty then .fault .notEnabled
  else
    let s' := (s.settleHeld core matrix fun c => c.part == part && !c.stopped).mapQueue core matrix fun q =>
      q.map fun c => if c.part = part then { c with stopped := true } else c
    .next (s'.addHalt part fun h' => { h' with
      records := h'.records ++ (cmds.filter fun c => c.kind != .tzero && !c.arrived).map fun c =>
        s.engineRecord { c with held := [] } 1 h.cause 0 0 })

/-- ENGINE_STOP (R274-R276): a group or an engine stops at a boundary and writes its stop records. -/
def execEngineStop (unit : StopUnit) (s : State) : Res :=
  match unit with
  | .group k =>
    let g := s.group k
    if g.retired || !s.present k then .fault .notEnabled
    else
      match (s.part g.part).halt with
      | some h => if g.stop = .halt then .fault .notEnabled else .next (s.stopHalted k h.cause)
      | none => if g.asked then .next (s.stopAsked k) else .fault .notEnabled
  | .matrix p c =>
    match (s.part p).halt with
    | some h => s.stopEngine p c true h
    | none => .fault .notEnabled
  | .copy p c =>
    match (s.part p).halt with
    | some h => s.stopEngine p c false h
    | none => .fault .notEnabled
  | .network p =>
    match (s.part p).halt with
    | some h =>
      let ops := (s.part p).netOps
      if h.engines.contains 1 || ops.isEmpty || !(s.part p).netMoves.isEmpty then .fault .notEnabled
      else
        .next (s.addHalt p fun h' => { h' with
          engines := 1 :: h'.engines
          records := h'.records ++ ops.map fun o => s.netRecord 1 h.cause 0 0 (netProgress o.kind o.done) })
    | none => .fault .notEnabled
  | .tasks p =>
    match (s.part p).halt with
    | some h => if h.engines.contains 0 then .fault .notEnabled
      else .next (s.addHalt p fun h' => { h' with engines := 0 :: h'.engines })
    | none => .fault .notEnabled

/-! ## Snapshots (R287) -/

/-- R287: the snapshot records of every group and every busy engine. -/
def State.snapshot (s : State) (part : Nat) : List StopRecord :=
  ((s.groupsIn part).map fun k => s.groupRecord (s.group k) 5 0 0 0 0) ++
  (((s.commandsIn part).filter fun c => c.kind != .tzero && !c.arrived).map fun c => s.engineRecord c 5 0 0 0) ++
  (s.part part).netOps.map fun o => s.netRecord 5 0 0 0 (netProgress o.kind o.done)

/-- R287: the nanoseconds from a trigger to its latch. -/
def latchDelay : Nat := 64

/-- SNAPSHOT_LATCH (R287): the oldest trigger's time has come.  DESIGN CHOICE: NS of its dump is the time of the latch
(log 116). -/
def execSnapshotLatch (part : Nat) (s : State) : Res :=
  let p := s.part part
  let now := s.nsNow.toNat
  match p.dbg.snaps with
  | t :: ts =>
    if now < t + latchDelay then .fault .notEnabled
    else .next ((s.setPart part { p with dbg := { p.dbg with snaps := ts } }).queueDump part 2 (s.snapshot part))
  | [] =>
    match p.halt with
    | some h =>
      if h.latched || now < h.ns + latchDelay then .fault .notEnabled
      else .next (s.addHalt part fun h => { h with latched := true, records := h.records ++ s.snapshot part })
    | none => .fault .notEnabled

/-! ## Dumps (R277, R278) -/

/-- R277: where a record stands in a dump. -/
def StopRecord.rank (r : StopRecord) : Nat :=
  let origin := r.kind == 0 || r.kind == 3 || r.kind == 6
  (if r.kind = 5 then 2 ^ 40 else 0) + (if origin then 0 else if r.src = 0 then 2 ^ 32 else 2 * 2 ^ 32) +
  (if origin then 0 else r.src * 2 ^ 20) + r.gid

/-- R277: the records in their order. -/
def dumpOrder (rs : List StopRecord) : List StopRecord := sortBy (fun a b => decide (a.rank ≤ b.rank)) rs

/-- How far the stores of a dump came. -/
structure DumpRun where
  /-- Bytes written. -/
  bytes : Nat := 0
  /-- A store has faulted. -/
  failed : Bool := false
  /-- A store waits for a migration. -/
  wait : Bool := false

/-- Store words of a dump at offsets from `base` until one faults. -/
def State.dumpStores (part : Nat) (base : Word) : State → DumpRun → List (Nat × Word) → State × DumpRun
  | s, r, [] => (s, r)
  | s, r, (off, w) :: rest =>
    match s.agentSet part (base + BitVec.ofNat 64 off) w with
    | .error .wait => (s, { r with wait := true })
    | .error (.fail c a) => (s.touchFail part c a.toNat, { r with failed := true })
    | .ok s => State.dumpStores part base s { r with bytes := max r.bytes (off + 8) } rest

/-- R277, R278: the stores of a dump of `n` records that writes the first of them. -/
def dumpStoreList (j : DumpJob) (seq n : Nat) (rs : List StopRecord) (trunc : Bool) : List (Nat × Word) :=
  let header := [word [at_ j.event 8, at_ j.cause.toNat 0], BitVec.ofNat 64 n, BitVec.ofNat 64 (64 * (n + 1)), 0, BitVec.ofNat 64 j.ns, 0,
    BitVec.ofNat 64 seq, 0]
  let body := rs.flatMap (·.words)
  ((header ++ body).zipIdx.map fun (w, i) => (8 * i, w)) ++
  [(0x08, word [at_ rs.length 32, at_ n 0]), (0x18, BitVec.ofNat 64 (64 * (rs.length + 1))), (0x28, at_ (b2n trunc) 0)]

/-- R278: write a dump. -/
def State.writeDump (s : State) (part : Nat) (j : DumpJob) : Res :=
  let p := s.part part
  let base := at_ (field p.dbg.dumpBase 6 51) 6
  let len := field p.dbg.dumpLen 6 26 * 64
  let seq := (p.dbg.seq + 1) % 2 ^ 32
  let done := fun (s : State) (stat : Word) =>
    let p := s.part part
    Host.Outcome.next (s.setPart part { p with dbg := { p.dbg with seq, dumpStat := stat } })
  if base = 0 then done s 0
  else if len < 64 then done s (at_ 1 63)
  else
    let n := j.records.length
    let fits := min n (len / 64 - 1)
    let rs := (dumpOrder j.records).take fits
    let (s', r) := State.dumpStores part base s {} (dumpStoreList j seq n rs (fits < n))
    if r.wait then .fault .notEnabled
    else done s' (word [at_ (b2n (decide (fits < n) && !r.failed)) 63, at_ (b2n r.failed) 62, at_ r.bytes 0])

/-- R277: the groups of a debug stop have all stopped, by it or by the halt line, or have retired. -/
def State.stopOver (s : State) (x : DebugStop) : Bool :=
  !x.records.isEmpty && x.groups.all fun k => !(s.group k).asked || (s.group k).retired

/-- DUMP_WRITE (R277, R278): the dump that is due is written: one that waits, that of a debug stop whose groups have all
stopped, or that of a halt whose engines have stopped and whose snapshot is latched. -/
def execDumpWrite (part : Nat) (s : State) : Res :=
  let p := s.part part
  match p.dbg.dumps with
  | j :: js => (s.setPart part { p with dbg := { p.dbg with dumps := js } }).writeDump part j
  | [] =>
    match p.dbg.stops.find? s.stopOver with
    | some x =>
      (s.setPart part { p with dbg := { p.dbg with stops := p.dbg.stops.erase x } }).writeDump part
        { event := 1, cause := 0, records := x.records, ns := x.ns }
    | none =>
      match p.halt with
      | some h =>
        if h.dumped || !h.latched || !s.allStopped part then .fault .notEnabled
        else (s.addHalt part fun h => { h with dumped := true }).writeDump part { event := 0, cause := h.cause, records := h.records, ns := h.ns }
      | none => .fault .notEnabled

/-- PARTITION_HALTED (R274): every record has been written or dropped. -/
def execPartitionHalted (part : Nat) (s : State) : Res :=
  let p := s.part part
  match p.halt with
  | some h =>
    if p.state = .free || p.state = .halted || !h.dumped || !p.dbg.dumps.isEmpty || p.dbg.stops.any (!·.records.isEmpty) then
      .fault .notEnabled
    else
      .next (s.setPart part { p with state := .halted, serialHolder := none, serialQ := [], dbg := { p.dbg with stops := [] } })
  | none => .fault .notEnabled

end Sys2Proof.Machine
end

