-- ==== Sys2Proof/Machine/Debug.lean ====
section
/-! DEFINITION. Sys2Proof/Machine/Debug.lean: killing a team (R282) and the debugger (R284-R286): the commands STOP, RESUME,
STEP, KILL and SNAP, the end of a step, watchpoints (R285, R430), and trace samples (R288). -/

namespace Sys2Proof.Machine

/-! ## Killing a team (R282) -/

/-- R247, R282 steps 1 and 3: a group of a killed team. -/
def Group.killed (g : Group) : Group :=
  { g with stop := .leaving, asked := false, stepping := none, stepOver := false, restarting := false
           atBarrier := none, tx := {} }

/-- R282 steps 1-4: the team stops, and what it has under way is discarded. -/
def State.beginKill (s : State) (key : Nat) : State :=
  let part := (s.team key).part
  let core := (s.team key).core
  let s := (s.settleHeld core false (·.team == key)).settleHeld core true (·.team == key)
  let s := s.cancelCommands key fun _ => true
  let s := foldState (s.groupsOf key) s fun k s =>
    ((((s.endStep k).withdrawToken part k).releaseToken part k).clearCall k).mapGroup k Group.killed
  let t := s.team key
  let c := s.core t.core
  (s.setCore t.core { c with teamQ := c.teamQ.filter (· != key) }).setTeam key
    { t with phase := .killing, openRegion := none, pending := none, restart := none, savedCmds := [] }

/-- R282 steps 4 and 5: the wake words whose pages were being migrated are cleared, and the groups of the killed team retire. -/
def State.killGroups (s : State) (key : Nat) : State :=
  let s := foldState (s.groupsOf key) s fun k s => (s.clearCall k).mapGroup k fun g => { g.flushIssued with retired := true }
  s.setTeam key { s.team key with killed := true, retireNs := s.nsNow.toNat, saveSlot := none }

/-- R282 steps 4 to 6: the resources of a killed team are freed and its team record is written with KILLED. -/
def State.endKill (s : State) (key : Nat) : Except AgentStop State :=
  let s := s.killGroups key
  if (s.groupsOf key).any fun k => (s.group k).park.isSome then .error .wait else s.retireTeam key

/-- R282: the resources of a killed team whose record cannot be written are freed all the same; in RUN the store halts the
partition (log 37). -/
def State.endUnrecorded (s : State) (key : Nat) (cause : BitVec 8) (addr : Word) : State :=
  let part := (s.team key).part
  let s := (s.killGroups key).vacate key
  if (s.part part).state = .run then s.taskHalt part cause addr 0 else s

/-- KILL_COMPLETE (R282): the counters of a killed team have drained. -/
def execDbgKillComplete (team : Nat) (s : State) : Res :=
  if (s.team team).phase ≠ .killing || !s.drained (s.groupsOf team) then .fault .notEnabled
  else
    match s.endKill team with
    | .ok s' => .next s'
    | .error .wait => .fault .notEnabled
    | .error (.fail c a) => .next (s.endUnrecorded team c a)

/-! ## The commands of DBG_CMD (R284, R286) -/

/-- R42: a function owns a partition that is not FREE. -/
def State.owns (s : State) (fn part : Nat) : Bool :=
  decide (part < 8) && (s.part part).state != .free && (s.part part).function == fn

/-- R24, R36, R62: a request of the host arrives. -/
def State.hostArrives (s : State) : Bool := s.pkg.hostUp

/-- R36, R42: the request reaches the registers and windows of the partition. -/
def State.reaches (s : State) (fn part : Nat) : Bool := !s.pkg.recovery && s.owns fn part

/-- The word that a write of DBG_CMD stores. -/
def debugWord (cmd stream scope gid : Nat) : Word :=
  word [at_ (stream % 4) 30, at_ (scope % 4) 28, at_ (gid % 2 ^ 14) 14, at_ cmd 0]

/-- A write of DBG_CMD by a function: stored, and performed by `f`; ignored where the function does not own the partition. -/
def State.debugWrite (s : State) (fn part : Nat) (w : Word) (f : State → Res) : Res :=
  if !s.hostArrives then .fault .notEnabled
  else if !s.reaches fn part then .next s
  else
    let p := s.part part
    f (s.setPart part { p with dbg := { p.dbg with cmd := w } })

/-- R284: the command is refused. -/
def State.debugRefused (s : State) (part : Nat) : Res :=
  let p := s.part part
  .next (s.setPart part { p with dbg := { p.dbg with refused := true } })

/-- The resident group with this identifier. -/
def State.groupByGid (s : State) (part gid : Nat) : Option Nat :=
  (s.groupsIn part).find? fun k => s.gid (s.group k) == gid && (s.team (s.group k).team).phase == .resident

/-- R284: the groups of a scope, counted from a group. -/
def State.scopeOf (s : State) (key scope : Nat) : List Nat :=
  let g := s.group key
  match scope with
  | 0 => [key]
  | 1 => s.groupsOf g.team
  | 2 => (s.cohortOf g.team).flatMap s.groupsOf
  | _ => s.groupsIn g.part

/-- STOP (R284, R286). -/
def execDbgStop (fn part stream scope gid : Nat) (s : State) : Res :=
  s.debugWrite fn part (debugWord 1 stream scope gid) fun s =>
    match s.groupByGid part (gid % 2 ^ 14) with
    | none => s.debugRefused part
    | some k =>
      let ks := s.scopeOf k (scope % 4)
      .next ((s.wakePorts ks).askStop part none ks)

/-- R286: a stopped group restarts; in a halted partition it stands by the halt line. -/
def Group.resume (g : Group) (halted : Bool) : Group :=
  if g.stop = .debug then
    { g.wake with stop := if halted then .halt else .none, asked := false, stepping := none, stepOver := false, skid := 0 }
  else g

/-- RESUME (R286). -/
def execDbgResume (fn part stream scope gid : Nat) (s : State) : Res :=
  s.debugWrite fn part (debugWord 2 stream scope gid) fun s =>
    match s.groupByGid part (gid % 2 ^ 14) with
    | none => s.debugRefused part
    | some k =>
      let halted := (s.part part).halt.isSome
      let ks := s.scopeOf k (scope % 4)
      .next (foldState ks (s.wakePorts ks) fun k s =>
        let s' := (s.endStep k).mapGroup k fun g => g.resume halted
        if (s'.group k).stop = .none then s'.resumeCall k else s')

/-- STEP (R286, R431): one instruction of a stream of a stopped group may issue.  DESIGN CHOICE: STREAM 2 and 3, which R284 does
not list, are refused (log 117). -/
def execDbgStep (fn part stream scope gid : Nat) (s : State) : Res :=
  s.debugWrite fn part (debugWord 3 stream scope gid) fun s =>
    match s.groupByGid part (gid % 2 ^ 14) with
    | none => s.debugRefused part
    | some k =>
      let s := s.endStep k
      let g := s.group k
      if g.stop ≠ .debug || g.stepping.isSome || g.asked || 2 ≤ stream % 4 then s.debugRefused part
      else if stream % 4 = 1 then
        .next (((s.wakePorts [k]).mapGroup k fun g => { g.wake with stepping := some true, stepOver := false }).resumeCall k)
      else .next ((s.wakePorts [k]).mapGroup k fun g => { g with stepping := some false, stepOver := false })

/-- STEP_END (R286, R431): the stepped instruction has ended, and a dump of its record is due. -/
def execDbgStepEnd (group : Nat) (s : State) : Res :=
  let g := s.group group
  if g.stop ≠ .debug || g.stepping.isNone || !g.stepOver then .fault .notEnabled else .next (s.endStep group)

/-- KILL (R282, R284). -/
def execDbgKill (fn part stream scope gid : Nat) (s : State) : Res :=
  s.debugWrite fn part (debugWord 4 stream scope gid) fun s =>
    match s.groupByGid part (gid % 2 ^ 14) with
    | none => s.debugRefused part
    | some k => .next ((s.wakePorts (s.groupsOf (s.group k).team)).beginKill (s.group k).team)

/-- A trigger of a snapshot (R287). -/
def State.triggerSnap (s : State) (part : Nat) : State :=
  let p := s.part part
  s.setPart part { p with dbg := { p.dbg with snaps := p.dbg.snaps ++ [s.nsNow.toNat] } }

/-- SNAP (R287). -/
def execDbgSnap (fn part stream scope gid : Nat) (s : State) : Res :=
  s.debugWrite fn part (debugWord 5 stream scope gid) fun s =>
    .next ((s.wakePorts (s.groupsIn part)).triggerSnap part)

/-! ## Watchpoints (R285, R430) -/

/-- WP_CTL and WP_ADDR. -/
def Debug.watchpoint (d : Debug) (w : Nat) : Word × Word := (d.wpCtl.get 0 w, d.wpAddr.get 0 w)

/-- Two runs of bytes overlap. -/
def runsMeet (a n b m : Nat) : Bool := decide (a < b + m) && decide (b < a + n)

/-- R285, R430: data watchpoint `w` matches an access of the acting group.  DESIGN CHOICE: WP_CTL.LEN is taken as 2^LEN bytes
for all its codes, and WP_ADDR as aligned to them (log 107). -/
def State.watchHit (s : State) (w : Nat) (a : Access) : Bool :=
  let (ctl, addr) := s.p.dbg.watchpoint w
  let size := 2 ^ field ctl 56 3
  let base := addr.toNat / size * size
  bit ctl 63 && field ctl 61 2 == 2 && ((a.rd && bit ctl 60) || (a.wr && bit ctl 59)) &&
  if addr.toNat < 2 ^ 57 then decide (a.addr.toNat < 2 ^ 57) && runsMeet a.addr.toNat a.len base size
  else
    match s.groupByGid s.g.part (field ctl 0 14) with
    | none => false
    | some k =>
      match s.window (s.group k).team (BitVec.ofNat 64 base) with
      | some (some t) => decide (spadBase ≤ a.loc) && runsMeet a.loc a.len t.loc size
      | _ => false

/-- A set of watchpoints. -/
def watchMask (ws : List Nat) : Byte := ws.foldl (fun m w => m ||| (1#8 <<< w)) 0

/-- R285, R430: an access is compared with the data watchpoints once, when it is made. -/
def State.judge (s : State) (a : Access) : Access :=
  { a with hits := some (a.hits.getD (watchMask ((List.range 8).filter fun w => bit s.p.dbg.ctl 0 && s.watchHit w a))) }

/-- The accesses of one stream of the acting group, compared. -/
def State.judged (s : State) (control : Bool) : List Access :=
  (s.accesses.filter fun a => (a.lane == 32) == control).map s.judge

/-- The data watchpoints that some accesses have hit. -/
def hitMask (as : List Access) : Byte := as.foldl (fun m a => m ||| a.hits.getD 0) 0

/-- The members of a set of watchpoints. -/
def watchesOf (m : Byte) : List Nat := (List.range 8).filter m.getLsbD

/-- R285, R430: watchpoints `ws` have hit the acting group: the others of the scopes are asked to stop, and snapshots are
triggered. -/
def State.broadcast (s : State) (ws : List Nat) : State :=
  if ws.isEmpty then s
  else
    let part := s.g.part
    let p := s.part part
    let ctl := fun (w : Nat) => (p.dbg.watchpoint w).1
    let s := s.setPart part { p with dbg := { p.dbg with wpHit := p.dbg.wpHit ||| watchMask ws } }
    let ks := ((ws.flatMap fun w => s.scopeOf s.actor (field (ctl w) 54 2)).filter (· != s.actor)).eraseDups
    foldState (ws.filter fun w => bit (ctl w) 53) (s.askStop part (some s.actor) ks) fun _ s => s.triggerSnap part

/-- R285: the acting group stops with `r` over watchpoints `ws`; those that an earlier point of its word hit have been
broadcast by then (R430). -/
def State.watchStop (s : State) (ws : List Nat) (r : StopRecord) : State :=
  let s := s.broadcast (ws.filter fun w => !s.hit.getLsbD w)
  (s.setG { s.g.flushIssued with stop := .debug, asked := false, skid := 0 }).addStop s.g.part s.actor r

/-- The lowest of some addresses. -/
def lowestAddr (as : List Access) : Word := as.foldl (fun m a => if a.addr.toNat < m.toNat then a.addr else m) ((as.map (·.addr)).headD 0)

/-- A group is parked by WAITM. -/
def Group.inWaitm (g : Group) : Bool :=
  match g.park with
  | some (.waitm ..) => true
  | _ => false

/-- R285: the accesses of one stream of the acting group against the data watchpoints.  A WAITM whose read hits one and that
parks stops its group when it completes; the broadcast goes out at the read (R430, log 121). -/
def State.watchStream (s : State) (control : Bool) : State :=
  let hits := (s.judged control).filter fun a => hitMask [a] != 0
  let ws := watchesOf (hitMask hits)
  if ws.isEmpty then s
  else if control && s.g.inWaitm then
    let s := s.broadcast (ws.filter fun w => !(hitMask s.g.seen).getLsbD w)
    s.setG { s.g with seen := hits ++ s.g.seen }
  else
    let lanes := if control then 0 else maskOf fun i => hits.any (·.lane == i)
    let info := if control then 32 else (lowestLane lanes).getD 0
    s.watchStop ws (s.groupRecord s.g 3 0 lanes (lowestAddr hits) (BitVec.ofNat 64 info))

/-- R285: after an instruction of the acting group, its data watchpoints. -/
def State.dataWatch (s : State) : State :=
  if s.accesses.isEmpty || s.g.stop == .halt then s else (s.watchStream false).watchStream true

/-- R285: a fetch watchpoint stops a group before the word a stream would issue next. -/
def State.fetchWatch (s : State) (control : Bool) : Option State :=
  let g := s.g
  let addr := if control then g.cpc else s.t.type.laneBase + BitVec.ofNat 64 (12 * g.lpc)
  let mark := if control then 2#2 else 1#2
  if !bit s.p.dbg.ctl 0 || g.stop != .none || g.passed &&& mark != 0 then none
  else
    let ws := (List.range 8).filter fun w =>
      let (ctl, a) := s.p.dbg.watchpoint w
      bit ctl 63 && field ctl 61 2 == (if control then 0 else 1) && a == addr
    if ws.isEmpty then none
    else
      let s := s.setG { g with passed := g.passed ||| mark }
      some (s.watchStop ws (s.groupRecord s.g 3 0 0 addr (if control then 32 else 0)))

/-! ## Trace samples (R288) -/

/-- TRACE_SAMPLE (R288): a sample period has passed since the group's last sample, the start of the trace, a change of SAMPLE
or the group's admission, and one stream of it is sampled. -/
def execTraceSample (group : Nat) (control : Bool) (s : State) : Res :=
  let g := s.group group
  let t := s.team g.team
  let p := s.part g.part
  let period := field p.dbg.ctl 8 16 * 1024
  let now := (s.cluster (clusterOf t.core)).cycles
  if period = 0 || !bit p.dbg.ctl 1 || now < g.sampled + period || t.phase ≠ .resident || g.retired then .fault .notEnabled
  else
    let pc := if control then field g.cpc 2 32 else g.lpc % 2 ^ 17
    let s := s.mapGroup group fun g => { g with sampled := now - (now - g.sampled) % period }
    .next (s.traceEvent g.part (dieOf t.core) 0x10 (s.gid g + (if control then 2 ^ 14 else 0))
      (some (word [at_ g.cur.toNat 0, at_ pc 32])))

end Sys2Proof.Machine
end

