-- ==== Sys2Proof/Machine/PackageEvents.lean ====
section
/-! DEFINITION. Sys2Proof/Machine/PackageEvents.lean: power, device reset and bring-up (R36-R40, R434), the Lattice and
the host link (R12-R15, R58, R62), the network reset (R26), uncorrectable errors (R75, R272) and the SPDM responder
(R37, R38). -/

namespace Sys2Proof.Machine

/-- Modules up on a link: 0-3 the edges 0-1, 1-3, 3-2 and 2-0; 4-7 the I/O links 0-3 (R15). -/
def Package.modules (p : Package) (link : Nat) : Nat := p.links.get 0 link

/-- R14, R15: since the links were trained, some edge or I/O link runs with fewer than half its modules. -/
def Package.degraded (p : Package) : Bool :=
  p.trained && (List.range 8).any fun l => decide (p.modules l < (if l < 4 then 12 else 3))

/-- R14: every link has a module up. -/
def Package.linked (p : Package) : Bool := (List.range 8).all fun l => 0 < p.modules l

/-- ALWAYS_ON_POWER (R28): the nanosecond counter starts at 0. -/
def execAlwaysOnPower (s : State) : Res :=
  .next { s with pkg := { s.pkg with ns := 0, slew := 0, slewFrac := 0, rateFrac := 0 } }

/-- R36: the chain accepts an image: its signature verifies and its version number is not below the fuse field's. -/
def Package.accepts (p : Package) (x : Firmware) : Bool := x.signed && decide (p.fuse.toNat ≤ x.version)

/-- DEVICE_RESET (R28, R36, R37, R39, R434): everything returns to its reset value but the nanosecond counter, which no
reset changes, the fuse field, the identity key's index in flash, and memory; the boot chain checks the three images,
the links train the modules named and the second tier reports the sizes named. DESIGN CHOICE: a boot that ends in recovery
spends no index, certifies no key and attests nothing (log 102). -/
def execDeviceReset (images : BootImages) (modules tiers : List Nat) (s : State) : Res :=
  let p := s.pkg
  let verified := p.accepts images.apex && p.accepts images.scalar && p.accepts images.network
  let limit := fun (x i : Nat) => min x (if i < 4 then 24 else 6)
  let links := (List.range 8).foldl (fun m i => SMap.set 0 m i (limit (modules.getD i 0) i)) []
  let tier := (List.range 10).foldl (fun m i => SMap.set 0 m i (min (tiers.getD i 0) (if i < 8 then 476 else 1907))) []
  let signed := p.hssIndex < 2 ^ 20
  .next { State.reset with
    pkg := { State.reset.pkg with
      ns := p.ns, rateFrac := p.rateFrac, links, trained := true, tier, recovery := !verified, fuse := p.fuse
      hssIndex := if verified && signed then p.hssIndex + 1 else p.hssIndex
      attest := verified && signed, boots := p.boots + 1 }
    mem := s.mem, stores := s.stores, free := s.free, phys := s.phys, agenda := s.agenda }

/-! ## Bring-up (R39, R40) -/

/-- A die's bring-up state. -/
def State.bistDie (s : State) (die : Nat) : Bist := s.pkg.bist.get {} die

/-- R40: DONE. -/
def State.bistDone (s : State) (die : Nat) : Bool := 64 ≤ (s.bistDie die).finished.length

/-- R40: the REPAIR entry of a failing row. -/
def repairWord (core array bank row spare : Nat) (unrep : Bool) : Word32 :=
  BitVec.ofNat 32 (2 ^ 31 + (dieOf core % 4) * 2 ^ 29 + (core / 4 % 16) * 2 ^ 25 + (core % 4) * 2 ^ 23 + (array % 8) * 2 ^ 20 +
    (bank % 32) * 2 ^ 15 + (row % 1024) * 2 ^ 5 + (spare % 4) * 2 ^ 3 + b2n unrep * 4)

/-- R39: one failing row of a core, the `n`th of its bank. DESIGN CHOICE: it takes spare `n` (log 101; the rule says only
"one of the bank's four spare rows"). -/
def State.repairRow (s : State) (core array bank row n : Nat) : State :=
  let die := dieOf core
  let p := s.pkg
  let b := s.bistDie die
  let unrep := 4 ≤ n
  let free := (List.range 512).find? fun i => p.repair.get 0 i == 0
  let repair := match free with
    | some i => SMap.set 0 p.repair i (repairWord core array bank row (if unrep then 0 else n) unrep)
    | none => p.repair
  let b := { b with ovf := b.ovf || free.isNone, rows := if unrep then b.rows else min 0xFFFF (b.rows + 1) }
  let fence := if unrep then SMap.set 0 p.fence die (p.fence.get 0 die ||| at_ 1 (core % 64)) else p.fence
  { s with pkg := { p with repair, fence, bist := SMap.set {} p.bist die b } }

/-- R39: the failing rows of a core, in the order the test meets them; `seen` are the ones already handled. -/
def State.repairRows (s : State) (core : Nat) (seen : List (Nat × Nat × Nat)) : List (Nat × Nat × Nat) → State
  | [] => s
  | (array, bank, row) :: rows =>
    let n := (seen.filter fun x => x.1 == array && x.2.1 == bank).length
    (s.repairRow core array bank row n).repairRows core ((array, bank, row) :: seen) rows

/-- R40: no core of the die is fenced and every link has a module up. -/
def State.bistPass (s : State) (die : Nat) : Bool := s.pkg.fence.get 0 die == 0 && s.pkg.linked

/-- BIST_COMPLETE (R39, R40): a core finishes its test, in which these rows (array, bank, row) failed.  DESIGN CHOICE: PASS is
what the end of the test found, and a link that loses its last module later leaves it (log 110). -/
def execBistComplete (core : Nat) (rows : List (Nat × Nat × Nat)) (s : State) : Res :=
  let die := dieOf core
  if s.pkg.recovery || 256 ≤ core || (s.bistDie die).finished.contains core then .fault .notEnabled
  else
    let s := s.repairRows core [] rows
    let b := s.bistDie die
    let b := { b with finished := core :: b.finished, pass := s.bistPass die }
    .next { s with pkg := { s.pkg with bist := SMap.set {} s.pkg.bist die b } }

/-! ## Links -/

/-- FLIT_CRC_FAIL (R12, R15): a flit is replayed, which FLIT_ERR counts. -/
def execFlitCrcFail (s : State) : Res := .next { s with pkg := { s.pkg with flits := s.pkg.flits + 1 } }

/-- R14, R276: FABRIC_LOSS in every partition that exists. -/
def State.fabricLoss (s : State) (link : Nat) : State :=
  foldState (List.range 8) s fun p s =>
    if (s.part p).state = .free then s
    else s.raiseHalt p causeFabricLoss (s.agentRecord 5 causeFabricLoss 0 (BitVec.ofNat 64 link) 0)

/-- MODULE_FAIL (R14): a module of a link fails at run time. -/
def execModuleFail (link : Nat) (s : State) : Res :=
  let n := s.pkg.modules link
  if n = 0 then .fault .notEnabled
  else
    let s := { s with pkg := { s.pkg with links := SMap.set 0 s.pkg.links link (n - 1) } }
    .next (if n = 1 then s.fabricLoss link else s)

/-- R62: the bytes of a dirty line are lost. -/
def State.loseLine (s : State) (line : Nat) : State :=
  s.setBytes (hostLoc (line * 128)) ((List.range 128).map fun i => Config.freeHost s.free (hostLoc (line * 128) + i))

/-- HOST_LINK_FAIL (R62, R63): the host agent poisons every line it holds; dirty data is lost, and so are the posted
writes that have not reached the host. -/
def execHostLinkFail (s : State) : Res :=
  if !s.pkg.hostUp then .fault .notEnabled
  else
    let held := s.pkg.hostHeld
    let s := foldState held s fun x s => if x.2.dirty then s.loseLine x.1 else s
    let poison := held.foldl (fun m (k, x) => m.put k x.parts) s.pkg.poison
    .next { s with pkg := { s.pkg with hostUp := false, poison, hostHeld := [], posted := [] } }

/-- HOST_LINK_RETRAIN (R62): the link comes back up; poison marks survive. -/
def execHostLinkRetrain (s : State) : Res :=
  if s.pkg.hostUp then .fault .notEnabled else .next { s with pkg := { s.pkg with hostUp := true } }

/-- HOST_SNOOP (R58): the host agent downgrades a line it holds, or gives it up. -/
def execHostSnoop (line : Nat) (keep : Bool) (s : State) : Res :=
  match SMap.find? s.pkg.hostHeld line with
  | none => .fault .notEnabled
  | some x =>
    let h := if keep then s.pkg.hostHeld.put line { x with dirty := false } else SMap.del s.pkg.hostHeld line
    .next { s with pkg := { s.pkg with hostHeld := h } }

/-- NETWORK_RESET (R26): the port mode takes effect. -/
def execNetworkReset (s : State) : Res := .next { s with pkg := { s.pkg with netActive := s.pkg.netPorts } }

/-! ## Uncorrectable errors -/

/-- ECC_UE (R272): an uncorrectable error in an array of the group's core, or in a line of a home slice at `addr`, halts
its context. -/
def execEccUe (group : Nat) (addr : Word) (array bank row : Nat) (s : State) : Res :=
  let g := s.group group
  if (s.team g.team).phase ≠ .resident || g.retired then .fault .notEnabled
  else
    { s with actor := group }.fault causeEccUe addr (word [at_ (array % 8) 0, at_ (bank % 32) 3, at_ (row % 1024) 8])

/-- QUEUE_ECC (R75, R272): an uncorrectable error in entry `entry` of a class's ready queue halts the partition. -/
def execQueueEcc (part cls entry : Nat) (s : State) : Res :=
  let p := s.part part
  if p.state ≠ .run || (p.queues.get [] cls).length ≤ entry then .fault .notEnabled
  else
    .next (s.raiseHalt part causeQueueEcc
      (s.agentRecord 4 causeQueueEcc 0 (word [at_ (cls % 8) 0, at_ (entry % 8192) 3]) 0))

/-! ## SPDM (R37, R38) -/

/-- The responder answers. -/
def State.answer (s : State) (stage : Nat) (a : SpdmAnswer) : Res :=
  .next { s with pkg := { s.pkg with spdm := a, spdmStage := stage } }

/-- A request that needs stage `n` of the negotiation, and an attesting part where `sign` says so. -/
def State.request (s : State) (n : Nat) (sign : Bool) (stage : Nat) (a : SpdmAnswer) : Res :=
  if s.pkg.spdmStage < n || (sign && !s.pkg.attest) then s.answer s.pkg.spdmStage .error
  else s.answer (max stage s.pkg.spdmStage) a

/-- GET_VERSION. -/
def execGetVersion (s : State) : Res := s.answer 1 (.version [0x12])

/-- GET_CAPABILITIES: certificates, challenge and signed measurements, and no sessions. -/
def execGetCapabilities (s : State) : Res := s.request 1 false 2 (.capabilities true true true false)

/-- NEGOTIATE_ALGORITHMS: SHA-384 and ECDSA P-384. -/
def execNegotiateAlgorithms (s : State) : Res := s.request 2 false 3 (.algorithms true true)

/-- GET_DIGESTS. -/
def execGetDigests (s : State) : Res :=
  s.request 3 true 3 (.digests [Config.sha384 (Config.certificateChain s.pkg.boots)])

/-- GET_CERTIFICATE. -/
def execGetCertificate (offset len : Nat) (s : State) : Res :=
  let c := Config.certificateChain s.pkg.boots
  let x := (c.drop offset).take len
  s.request 3 true 3 (.certificate x (c.length - offset - x.length))

/-- R38: the four measurement blocks: the three images and the fuse field. -/
def Package.measured (p : Package) : List (Nat × BitVec 384) :=
  [(1, Config.imageHash p.boots 1), (2, Config.imageHash p.boots 2), (3, Config.imageHash p.boots 3),
    (4, Config.sha384 (leBytes 8 p.fuse.toNat))]

/-- The bytes of a 384-bit hash. -/
def hashBytes (h : BitVec 384) : List Byte := leBytes 48 h.toNat

/-- CHALLENGE. -/
def execChallenge (nonce : List Byte) (s : State) : Res :=
  let p := s.pkg
  let chain := Config.sha384 (Config.certificateChain p.boots)
  let summary := Config.sha384 (p.measured.flatMap fun x => hashBytes x.2)
  s.request 3 true 3
    (.challengeAuth chain summary (Config.aliasSign p.boots (nonce ++ hashBytes chain ++ hashBytes summary)))

/-- GET_MEASUREMENTS: block `index`, or every block for 0xFF; ERROR for any other index, 0 among them (log 9). -/
def execGetMeasurements (index : Nat) (sign : Bool) (nonce : List Byte) (s : State) : Res :=
  let p := s.pkg
  let blocks := p.measured.filter fun x => index == 0xFF || x.1 == index
  if blocks.isEmpty then s.answer p.spdmStage .error
  else
    s.request 3 true 3 (.measurements blocks
      (if sign then some (Config.aliasSign p.boots (nonce ++ blocks.flatMap fun x => hashBytes x.2)) else none))

end Sys2Proof.Machine
end

