-- ==== Sys2Proof/Machine/HostRegisters.lean ====
section
/-! DEFINITION. Sys2Proof/Machine/HostRegisters.lean: BAR0 of the functions (R35, R42, R43, R45, R284, R435): which register
an offset names, what it reads, what a write stores, and the events REGISTER_WRITE, RC_FIELD_READ and NS_STEP. -/

namespace Sys2Proof.Machine

/-! ## Which register (R35, R42, R284) -/

/-- A register of BAR0. -/
inductive Reg where
  /-- Apex block, by its offset. -/
  | apex (off : Nat)
  /-- Partition page. -/
  | page (part off : Nat)
  /-- Debug page. -/
  | debug (part off : Nat)
  /-- A doubleword of the function's MSI-X table. -/
  | msix (off : Nat)
  /-- A doubleword of the function's pending bits. -/
  | pba (off : Nat)
  /-- No register. -/
  | none
  deriving DecidableEq, Repr

/-- The first byte of the register that holds byte `off` of a block: REPAIR has 32-bit registers, MSI-X doublewords. -/
def Reg.base (off : Nat) : Nat := if 0x1000 ≤ off && off < 0x1800 then off / 4 * 4 else off / 8 * 8

/-- R42: the partition's page that offset `o` from the first page of its kind names. -/
def pageOf (fn o : Nat) : Option (Nat × Nat) :=
  if fn = 0 then (if o < 0x8000 then some (o / 0x1000, o % 0x1000) else none)
  else if o < 0x1000 then some (fn - 1, o) else none

/-- R42: an access by function `fn` at offset `off`: the register, and the byte of it that `off` is. -/
def regAt (fn off : Nat) : Reg × Nat :=
  if off < 0x2000 then (.apex (Reg.base off), off - Reg.base off)
  else if off < 0x10000 then (.none, 0)
  else if off < 0x18000 then
    match pageOf fn (off - 0x10000) with
    | some (p, o) => (.page p (o / 8 * 8), o % 8)
    | none => (.none, 0)
  else if off < 0x20000 then
    match pageOf fn (off - 0x18000) with
    | some (p, o) => (.debug p (o / 8 * 8), o % 8)
    | none => (.none, 0)
  else if off < 0x21000 then (.msix (off / 4 * 4 - 0x20000), off % 4)
  else if 0x30000 ≤ off && off < 0x30020 then (.pba (off / 8 * 8 - 0x30000), off % 8)
  else (.none, 0)

/-- R435: a naturally aligned access of 1, 2, 4 or 8 bytes. -/
def accessOk (off len : Nat) : Bool := (len == 1 || len == 2 || len == 4 || len == 8) && off % len == 0

/-- R42: the function reaches the register: the PF reaches PART_CTL, PART_CMD and PART_ERR of every partition. -/
def State.regReach (s : State) (fn : Nat) : Reg → Bool
  | .page p off => (fn == 0 && off < 0x18) || s.owns fn p
  | .debug p _ => s.owns fn p
  | _ => true

/-! ## What registers read -/

/-- R15: FLIT_ERR, in powers of two. -/
def flitErr (n : Nat) : Nat := ((List.range 16).filter fun k => 2 ^ k - 1 ≤ n).foldl max 0

/-- R15: LAT_STATUS. -/
def Package.latStatus (p : Package) : Word :=
  word [at_ (b2n p.degraded) 60, at_ (flitErr p.flits) 56, at_ (p.modules 7) 45, at_ (p.modules 6) 40, at_ (p.modules 5) 35,
    at_ (p.modules 4) 30, at_ (p.modules 3) 25, at_ (p.modules 2) 20, at_ (p.modules 1) 15, at_ (p.modules 0) 10]

/-- R40: BIST_SUMMARY of a die. DESIGN CHOICE: before DONE, CORES_OK counts the cores that have finished so far less the
fenced ones (log 103). -/
def State.bistSummary (s : State) (die : Nat) : Word :=
  let b := s.bistDie die
  let fenced := ((List.range 64).filter fun c => bit (s.pkg.fence.get 0 die) c).length
  let ok := if b.finished.isEmpty then 0 else b.finished.length - fenced
  word [at_ (b2n (s.bistDone die)) 31, at_ (b2n (s.bistDone die && b.pass)) 30, at_ (b2n b.ovf) 29, at_ ok 16, at_ b.rows 0]

/-- R35: an Apex register, a 32-bit one in bits [31:0]. -/
def State.apexReg (s : State) (off : Nat) : Word :=
  let p := s.pkg
  if off = 0x10 then p.ilv.setWidth 64
  else if off = 0x20 then p.latStatus
  else if off = 0x100 then p.ns
  else if off = 0x108 then BitVec.ofInt 64 (-(p.slew : Int))
  else if off = 0x110 then p.ppb.setWidth 64
  else if 0x200 ≤ off && off < 0x400 then
    let c := s.cluster ((off - 0x200) / 8)
    word [at_ c.clk 8, at_ c.permits 1, at_ (b2n c.en) 0]
  else if 0x400 ≤ off && off < 0x420 then BitVec.ofNat 64 (s.boostDie ((off - 0x400) / 8)).written
  else if off = 0x500 then p.migPool
  else if off = 0x508 then p.migMap
  else if off = 0x510 then p.migCnt
  else if off = 0x518 then word [at_ p.migStarve.toNat 32, at_ p.migSkip.toNat 0]
  else if off = 0x600 then word [at_ p.netActive.toNat 1, at_ p.netPorts.toNat 0]
  else if 0x700 ≤ off && off < 0x720 then s.bistSummary ((off - 0x700) / 8)
  else if 0x720 ≤ off && off < 0x740 then p.fence.get 0 ((off - 0x720) / 8)
  else if 0x800 ≤ off && off < 0x850 then BitVec.ofNat 64 (p.tier.get 0 ((off - 0x800) / 8))
  else if 0x1000 ≤ off && off < 0x1800 then (p.repair.get 0 ((off - 0x1000) / 4)).setWidth 64
  else 0

/-- R43: STATE. -/
def PartState.number : PartState → Nat
  | .free => 0
  | .config => 1
  | .run => 2
  | .halted => 3

/-- R43: a register of a partition page. -/
def Partition.pageReg (p : Partition) (off : Nat) : Word :=
  let g := p.page
  if off = 0x000 then word [at_ g.owner.toNat 12, at_ p.state.number 0]
  else if off = 0x008 then g.cmd.setWidth 64
  else if off = 0x010 then g.err.setWidth 64
  else if off = 0x018 then g.ptRoot
  else if 0x020 ≤ off && off < 0x040 then g.cores.get 0 ((off - 0x020) / 8)
  else if off = 0x040 then g.capMap
  else if off = 0x048 then g.capLen
  else if off = 0x050 then g.winBase
  else if off = 0x060 then g.cqBase
  else if off = 0x068 then g.cqCtl
  else if off = 0x070 then g.cqCons
  else if off = 0x078 then g.cqProd.setWidth 64
  else if off = 0x080 then g.cqWake
  else if 0x100 ≤ off && off < 0x900 then g.irqBind.get 0 ((off - 0x100) / 8)
  else 0

/-- R284: DBG_STAT. -/
def State.debugStat (s : State) (part : Nat) : Word :=
  let gs := (s.groupsIn part).map s.group
  let stopped := (gs.filter fun g => g.stop == .debug).length
  let stepping := gs.any fun g => g.stop == .debug && g.stepping.isSome && !g.stepOver
  let d := (s.part part).dbg
  word [at_ d.seq 32, at_ (b2n d.refused) 17, at_ (b2n stepping) 16, at_ (min 0xFFFF stopped) 0]

/-- R284: a register of a debug page. -/
def State.debugReg (s : State) (part off : Nat) : Word :=
  let d := (s.part part).dbg
  if off = 0x000 then d.ctl
  else if off = 0x008 then d.cmd
  else if off = 0x010 then s.debugStat part
  else if off = 0x018 then d.dumpBase
  else if off = 0x020 then d.dumpLen
  else if off = 0x028 then d.dumpStat
  else if off = 0x030 then d.saveBase
  else if off = 0x038 then d.saveSlots
  else if off = 0x040 then d.traceBase
  else if off = 0x048 then d.traceLen
  else if 0x050 ≤ off && off < 0x070 then d.tracePtr.get 0 ((off - 0x050) / 8)
  else if 0x080 ≤ off && off < 0x100 then
    let w := (off - 0x080) / 16
    if off % 16 = 0 then d.wpAddr.get 0 w else d.wpCtl.get 0 w
  else if off = 0x100 then d.wpHit.setWidth 64
  else if 0x140 ≤ off && off < 0x180 then d.stop0.get 0 ((off - 0x140) / 8)
  else 0

/-- A doubleword of an MSI-X entry, as PCIe lays it out: address low and high, data, vector control. -/
def MsixEntry.dword (e : MsixEntry) (i : Nat) : Word :=
  match i with
  | 0 => at_ (field e.addr 0 32) 0
  | 1 => at_ (field e.addr 32 32) 0
  | 2 => e.data.setWidth 64
  | _ => at_ (b2n e.masked) 0

/-- Pending bits 64 * i to 64 * i + 63 of a function. -/
def Package.pending (p : Package) (fn i : Nat) : Word :=
  (List.range 64).foldl (fun w k => if (p.msix.get {} (fn * 256 + 64 * i + k)).pending then w ||| at_ 1 k else w) 0

/-- The value of a register. -/
def State.regValue (s : State) (fn : Nat) : Reg → Word
  | .apex off => s.apexReg off
  | .page p off => (s.part p).pageReg off
  | .debug p off => s.debugReg p off
  | .msix off => (s.pkg.msix.get {} (fn * 256 + off / 16)).dword (off % 16 / 4)
  | .pba off => s.pkg.pending fn (off / 8)
  | .none => 0

/-- R15, R23: what a read that returns bytes `lo` to `lo + n - 1` of a register clears. -/
def State.regClear (s : State) (r : Reg) (lo n : Nat) : State :=
  match r with
  | .apex 0x20 => if 7 < lo + n then { s with pkg := { s.pkg with flits := 0 } } else s
  | .apex 0x518 =>
    let s := if lo = 0 && 4 ≤ n then { s with pkg := { s.pkg with migSkip := 0 } } else s
    if lo ≤ 4 && lo + n = 8 then { s with pkg := { s.pkg with migStarve := 0 } } else s
  | _ => s

/-- What a host read returns. -/
def State.reply (s : State) (bs : List Byte) : State := { s with pkg := { s.pkg with hostReply := bs } }

/-- RC_FIELD_READ (R42, R435): a host read of BAR0: the addressed bytes, and an RC field that it returns whole is cleared. -/
def execRcFieldRead (fn off len : Nat) (s : State) : Res :=
  if !s.hostArrives then .fault .notEnabled
  else if s.pkg.recovery then .next (s.reply [])
  else
    let (r, lo) := regAt fn off
    if !accessOk off len || !s.regReach fn r then .next (s.reply (leBytes len 0))
    else .next ((s.regClear r lo len).reply (leBytes len ((s.regValue fn r).toNat / 2 ^ (8 * lo))))

/-! ## What writes store -/

/-- R18, R23, R27, R29, R34: a write of an Apex register, its value merged with the bytes not written. -/
def State.writeApex (s : State) (off : Nat) (w : Word) : State :=
  let p := s.pkg
  if off = 0x10 then
    if (List.range 8).all fun i => (s.part i).state == .free then { s with pkg := { p with ilv := w.setWidth 1 } } else s
  else if off = 0x110 then
    let x := (BitVec.ofNat 32 w.toNat).toInt
    { s with pkg := { p with ppb := BitVec.ofInt 32 (max (-128000000) (min 128000000 x)) } }
  else if 0x200 ≤ off && off < 0x400 then
    let c := (off - 0x200) / 8
    { s with clusters := SMap.set {} s.clusters c { s.cluster c with en := bit w 0 } }
  else if 0x400 ≤ off && off < 0x420 then
    let d := (off - 0x400) / 8
    { s with pkg := { p with boost := SMap.set {} p.boost d { s.boostDie d with written := min 16 (field w 0 5) } } }
  else if off = 0x500 then { s with pkg := { p with migPool := at_ (field w 16 36) 16 } }
  else if off = 0x508 then { s with pkg := { p with migMap := at_ (field w 3 49) 3 } }
  else if off = 0x510 then { s with pkg := { p with migCnt := at_ (field w 0 24) 0 } }
  else if off = 0x600 then { s with pkg := { p with netPorts := w.setWidth 1 } }
  else s

/-- Change the partition page. -/
def State.setPage (s : State) (part : Nat) (g : Page) : State := s.setPart part { s.part part with page := g }

/-- R41, R43, R45: a write of a partition page: `w` merged with the bytes not written, `v` with those taken as 0.  CAP_LEN
keeps what it can hold (log 80). -/
def State.writePage (s : State) (fn part off : Nat) (w v : Word) : State :=
  let p := s.part part
  let g := p.page
  let cfg := p.state == .config
  let live := p.state == .config || p.state == .run
  if off = 0x000 then
    let o := field w 12 4
    if fn = 0 && p.state == .free && (o == 0 || o == part + 1) then s.setPage part { g with owner := BitVec.ofNat 4 o } else s
  else if off = 0x008 then s.partErr part 5
  else if off = 0x010 then s.setPage part { g with err := g.err &&& ~~~(v.setWidth 8) }
  else if off = 0x040 then if live then s.setPage part { g with capMap := at_ (field w 3 54) 3 } else s
  else if off = 0x048 then if live then s.setPage part { g with capLen := BitVec.ofNat 64 (min 65536 (field w 0 17)) } else s
  else if 0x100 ≤ off && off < 0x900 then
    if live then s.setPage part { g with irqBind := SMap.set 0 g.irqBind ((off - 0x100) / 8) w } else s
  else if !cfg then s
  else if off = 0x018 then s.setPage part { g with ptRoot := at_ (field w 12 40) 12 }
  else if 0x020 ≤ off && off < 0x040 then s.setPage part { g with cores := SMap.set 0 g.cores ((off - 0x020) / 8) w }
  else if off = 0x050 then s.setPage part { g with winBase := at_ (field w 36 21) 36 }
  else if off = 0x060 then s.setPage part { g with cqBase := at_ (field w 12 52) 12 }
  else if off = 0x068 then s.setPage part { g with cqCtl := word [at_ (field w 16 8) 16, at_ (b2n (bit w 8)) 8, at_ (field w 0 5) 0] }
  else if off = 0x070 then s.setPage part { g with cqCons := at_ (field w 3 61) 3 }
  else if off = 0x080 then s.setPage part { g with cqWake := at_ (field w 3 54) 3 }
  else s

/-- Change the debug page. -/
def State.setDebug (s : State) (part : Nat) (d : Debug) : State := s.setPart part { s.part part with dbg := d }

/-- R288: the sample periods of a partition's groups start again. -/
def State.restartSamples (s : State) (part : Nat) : State :=
  foldState (s.groupsIn part) s fun k s =>
    s.mapGroup k fun g => { g with sampled := (s.cluster (clusterOf (s.team g.team).core)).cycles }

/-- R284, R288: a write of a debug page. -/
def State.writeDebug (s : State) (part off : Nat) (w v : Word) : State :=
  let d := (s.part part).dbg
  if off = 0x000 then
    let starts := bit w 1 && !bit d.ctl 1
    let s := s.setDebug part { d with ctl := word [at_ (field w 8 16) 8, at_ (field w 0 2) 0] }
    let s := if starts || field w 8 16 != field d.ctl 8 16 then s.restartSamples part else s
    if starts then s.startTrace part else s
  else if off = 0x008 then
    s.setDebug part { d with cmd := word [at_ (field v 14 18) 14, at_ (field v 0 4) 0], refused := true }
  else if off = 0x010 then if bit v 17 then s.setDebug part { d with refused := false } else s
  else if off = 0x018 then s.setDebug part { d with dumpBase := at_ (field w 6 51) 6 }
  else if off = 0x020 then s.setDebug part { d with dumpLen := at_ (field w 6 26) 6 }
  else if off = 0x030 then s.setDebug part { d with saveBase := at_ (field w 22 35) 22 }
  else if off = 0x038 then s.setDebug part { d with saveSlots := at_ (field w 0 16) 0 }
  else if off = 0x040 then s.setDebug part { d with traceBase := at_ (field w 6 51) 6 }
  else if off = 0x048 then s.setDebug part { d with traceLen := at_ (field w 6 26) 6 }
  else if 0x080 ≤ off && off < 0x100 then
    let i := (off - 0x080) / 16
    if off % 16 = 0 then s.setDebug part { d with wpAddr := SMap.set 0 d.wpAddr i w }
    else
      let x := word [at_ (field w 53 11) 53, at_ (field w 0 14) 0]
      s.setDebug part { d with wpCtl := SMap.set 0 d.wpCtl i (if field w 61 2 = 3 then x &&& ~~~(at_ 1 63) else x) }
  else if off = 0x100 then s.setDebug part { d with wpHit := d.wpHit &&& ~~~(v.setWidth 8) }
  else s

/-- R52: a write of a doubleword of an MSI-X entry; a vector that is unmasked while pending is raised. -/
def State.writeMsix (s : State) (fn off : Nat) (w : Word) : State :=
  let vec := off / 16
  let k := fn * 256 + vec
  let e := s.pkg.msix.get {} k
  let put := fun (e : MsixEntry) => { s with pkg := { s.pkg with msix := s.pkg.msix.put k e } }
  match off % 16 / 4 with
  | 0 => put { e with addr := at_ (field e.addr 32 32) 32 ||| at_ (field w 2 30) 2 }
  | 1 => put { e with addr := at_ (field w 0 32) 32 ||| at_ (field e.addr 0 32) 0 }
  | 2 => put { e with data := BitVec.ofNat 32 w.toNat }
  | _ =>
    if !bit w 0 && e.pending then
      { s with pkg := { s.pkg with msix := s.pkg.msix.put k { e with masked := false, pending := false }
                                   irqs := (fn, vec) :: s.pkg.irqs } }
    else put { e with masked := bit w 0 }

/-- The bits of bytes `lo` to `lo + n - 1` of a register. -/
def byteMask (lo n : Nat) : Word := at_ ((2 ^ (8 * n) - 1) % 2 ^ 64) (8 * lo)

/-- R435: the write of `n` bytes of `value` at byte `lo` of a register. -/
def State.writeReg (s : State) (fn : Nat) (r : Reg) (lo n : Nat) (value : Word) : State :=
  let m := byteMask lo n
  let v := (value <<< (8 * lo)) &&& m
  let w := (s.regValue fn r &&& ~~~m) ||| v
  match r with
  | .apex off => if fn = 0 then s.writeApex off w else s
  | .page p off => s.writePage fn p off w v
  | .debug p off => s.writeDebug p off w v
  | .msix off => s.writeMsix fn off w
  | _ => s

/-- A write that another row of the table names: NS_STEP, a command of PART_CMD or one of DBG_CMD. -/
def Reg.ownRow (r : Reg) (fn lo n : Nat) (value : Word) : Bool :=
  let v := (value <<< (8 * lo)) &&& byteMask lo n
  match r with
  | .apex 0x108 => fn == 0
  | .page _ 0x008 => 1 ≤ field v 0 3 && field v 0 3 ≤ 4
  | .debug _ 0x008 => 1 ≤ field v 0 4 && field v 0 4 ≤ 5
  | _ => false

/-- REGISTER_WRITE (R42, R435): a host write of BAR0; a quadword of the MSI-X table is two doublewords. -/
def execRegisterWrite (fn off len : Nat) (value : Word) (s : State) : Res :=
  let (r, lo) := regAt fn off
  if !s.hostArrives then .fault .notEnabled
  else if s.pkg.recovery || !accessOk off len || !s.regReach fn r then .next s
  else if r.ownRow fn lo len value then .fault .notEnabled
  else
    match r with
    | .msix o =>
      let s := s.writeReg fn (.msix o) lo (min len 4) value
      .next (if len = 8 then s.writeReg fn (.msix (o + 4)) 0 4 (value >>> 32) else s)
    | r => .next (s.writeReg fn r lo len value)

/-! ## NS_STEP (R29) -/

/-- R29: a signed step of the nanosecond counter. -/
def Package.step (p : Package) (d : Int) : Package :=
  if 0 ≤ d then
    let cancel := min d.toNat p.slew
    { p with slew := p.slew - cancel, slewFrac := if p.slew ≤ cancel then 0 else p.slewFrac
             ns := p.ns + BitVec.ofNat 64 (d.toNat - cancel) }
  else { p with slew := p.slew + (-d).toNat }

/-- NS_STEP (R29, R35, R435): a host write of NS_STEP, whose written bytes form `delta`. -/
def execNsStep (fn : Nat) (delta : Word) (s : State) : Res :=
  if !s.hostArrives then .fault .notEnabled
  else if fn ≠ 0 || s.pkg.recovery then .next s
  else .next { s with pkg := s.pkg.step delta.toInt }

end Sys2Proof.Machine
end

