-- ==== Sys2Proof/Machine/Host.lean ====
section
/-! DEFINITION. Sys2Proof/Machine/Host.lean: the commands of PART_CMD (R44, R62, R93, R282), the device-memory window (R46), the
counter aperture (R49) and the wake window (R55), as the host's requests meet them. -/

namespace Sys2Proof.Machine

/-! ## PART_CMD (R44) -/

/-- R42: the function's write reaches PART_CMD: the PF's in every partition, a VF's in its own. -/
def State.commands (s : State) (fn part : Nat) : Bool := !s.pkg.recovery && decide (part < 8) && (fn == 0 || s.owns fn part)

/-- R44: PART_CMD holds the last accepted command. -/
def State.noteCmd (s : State) (part cmd : Nat) : State :=
  let p := s.part part
  s.setPart part { p with page := { p.page with cmd := BitVec.ofNat 3 cmd } }

/-- A write of PART_CMD: `f` performs the command where `ok` holds; otherwise it is ignored and CMD_REFUSED is set. -/
def State.partCommand (s : State) (fn part cmd : Nat) (ok : Bool) (f : State → Res) : Res :=
  if !s.hostArrives then .fault .notEnabled
  else if !s.commands fn part then .next s
  else if !ok then .next (s.partErr part 5)
  else f (s.noteCmd part cmd)

/-- CREATE (R18, R44, R221). -/
def execCreateCmd (fn part : Nat) (s : State) : Res :=
  s.partCommand fn part 1 ((s.part part).state == .free && (List.range 4).all s.bistDone) fun s =>
    let p := s.part part
    .next (s.setPart part { p with state := .config, ilv := s.pkg.ilv, locus := [], locusClock := 1 })


/-- R44: a core is owned by another partition in CONFIG, RUN or HALTED. -/
def State.coreTaken (s : State) (part core : Nat) : Bool :=
  (List.range 8).any fun q => q != part && (s.part q).state != .free && bit ((s.part q).page.cores.get 0 (dieOf core)) (core % 64)

/-- R44: START's conditions but for the control area. -/
def State.startable (s : State) (part : Nat) : Bool :=
  let p := s.part part
  p.state == .config && p.page.ptRoot != 0 && !p.coreList.isEmpty &&
  p.coreList.all (fun c => s.eligible part c && !s.coreTaken part c) && s.pkg.linked

/-- R65, R86, R92: RESV and NETID have no non-zero reserved field, and no other partition in RUN has this NETID. -/
def State.identityOk (s : State) (part : Nat) (resv netid : Word) : Bool :=
  field resv 9 55 == 0 && field netid 36 28 == 0 &&
  (netid == 0 || (List.range 8).all fun q => q == part || (s.part q).state != .run || (s.part q).netid != netid)

/-- R93: every core of the partition holds back a set for one team of a type. -/
def State.reserve (s : State) (part : Nat) (ty : TaskType) : State :=
  foldState (s.part part).coreList s fun c s =>
    if bit (s.pkg.fence.get 0 (dieOf c)) (c % 64) then s else s.setCore c { s.core c with resv := (s.occupied c []).fit ty }

/-- R92, R93: the reservation that RESV configures; a type entry that cannot be read halts the partition (R64, R76). -/
def State.setReservation (s : State) (part : Nat) (resv : Word) : Res :=
  if !bit resv 8 then .next s
  else
    match s.readType part (field resv 0 8) with
    | .error e => s.agentStep part (.error e)
    | .ok (ty, s) => .next (s.reserve part ty)

/-- R65: RESV and NETID, as START reads them. -/
def State.identity (s : State) (part : Nat) : AgentRes (Word × Word) :=
  match s.agentWord part (ctlAt 0x4200) with
  | .error e => .error e
  | .ok (resv, s) =>
    match s.agentWord part (ctlAt 0x4208) with
    | .error e => .error e
    | .ok (netid, s) => .ok ((resv, netid), s)

/-- R44, R65, R74, R95, R244: the partition enters RUN. -/
def State.enterRun (s : State) (part : Nat) (resv netid : Word) : State :=
  s.setPart part { s.part part with state := .run, resv, netid, fired := [], disorder := 0, diePrio := 0, serialPtr := 0 }

/-- START (R44, R65, R74): refused unless its conditions hold and the identity words can be read. -/
def execStartCmd (fn part : Nat) (s : State) : Res :=
  if !s.commands fn part || !s.startable part then s.partCommand fn part 2 false .next
  else
    match s.identity part with
    | .error .wait => .fault .notEnabled
    | .error (.fail _ _) => s.partCommand fn part 2 false .next
    | .ok ((resv, netid), s) => s.partCommand fn part 2 (s.identityOk part resv netid) fun s =>
      let s := s.enterRun part resv netid
      match State.writeClasses part s (List.range 8) with
      | .error e => s.agentStep part (.error e)
      | .ok s => s.setReservation part resv

/-- HALT (R44, R276). -/
def execHaltCmd (fn part : Nat) (s : State) : Res :=
  s.partCommand fn part 3 ((s.part part).state == .run) fun s =>
    .next (s.raiseHalt part causeHostHalt (s.agentRecord 5 causeHostHalt 0 0 0))

/-- R62: DESTROY of the last partition that touched a poisoned line clears its mark; the last is the last in RUN, so that
another one in CONFIG or HALTED does not keep it (log 85). -/
def State.clearPoison (s : State) (part : Nat) : State :=
  { s with pkg := { s.pkg with
      poison := s.pkg.poison.filter fun x =>
        !(x.2.contains part && x.2.all fun q => q == part || (s.part q).state != .run) } }

/-- R282: DESTROY kills teams, has all that they have in flight complete, and writes their records; it waits for a migration that one of these stores meets
(R20). -/
def State.destroyTeams : State → List Nat → Option State
  | s, [] => some s
  | s, key :: keys =>
    if (s.team key).phase = .done then State.destroyTeams s keys
    else
      let s := s.beginKill key
      let s := foldState (s.groupsOf key) s fun k s => s.drainGroup k
      match s.endKill key with
      | .ok s' => State.destroyTeams s' keys
      | .error .wait => none
      | .error (.fail c a) => State.destroyTeams (s.endUnrecorded key c a) keys

/-- R44, R56: what DESTROY clears once the teams are gone. -/
def State.wipePart (s : State) (part : Nat) : State :=
  let s := foldState ((s.teams.filter fun x => x.2.part == part).map (·.1)) s fun k s => s.dropTeam k
  let s := foldState (s.part part).coreList s fun c s => s.setCore c { s.core c with resv := none }
  let p := s.part part
  (s.clearPoison part).setPart part
    { page := { owner := p.page.owner }, dbg := { p.dbg with stops := [], snaps := [], dumps := [] }, winMoves := p.winMoves }

/-- DESTROY (R44, R56, R62, R221, R282): every team is killed, and the partition's page and resources are cleared. -/
def execDestroyCmd (fn part : Nat) (s : State) : Res :=
  s.partCommand fn part 4 ((s.part part).state == .config || (s.part part).state == .halted) fun s =>
    let keys := (s.teams.filter fun x => x.2.part == part).map (·.1)
    match State.destroyTeams s keys with
    | some s => .next (s.wipePart part)
    | none => .fault .notEnabled

/-! ## The device-memory window (R46) -/

/-- R42: the partition and the offset in it that an access to a BAR with `span` bytes for each partition names. -/
def barAt (fn off span : Nat) : Nat × Nat := if fn = 0 then (off / span, off % span) else (fn - 1, off)

/-- R42: an access to the BAR of a partition that the function owns; others read as zero and are ignored. -/
def State.barAccess (s : State) (fn off span len : Nat) (f : Nat → Nat → Res) : Res :=
  let (part, o) := barAt fn off span
  if !s.hostArrives then .fault .notEnabled
  else if s.pkg.recovery then .next (s.reply [])
  else if span ≤ o || !s.owns fn part then .next (s.reply (List.replicate len 0))
  else f part o

/-- R46: the address at window offset `o`. -/
def Partition.windowAddr (p : Partition) (o : Nat) : Word := p.page.winBase + BitVec.ofNat 64 o

/-- R46: the locations of the aligned parts of `n` bytes at `va`: at most eight bytes each, all of them device bytes. -/
def State.windowParts (part : Nat) (need : Need) : Nat → State → Word → Nat → AgentRes (List (Nat × Nat))
  | 0, s, _, _ => .ok ([], s)
  | fuel + 1, s, va, n =>
    if n = 0 then .ok ([], s)
    else
      let k := min n (8 - va.toNat % 8)
      match s.agentAccess part va.toNat 1 need with
      | .error none => .error .wait
      | .error (some c) => .error (.fail c va)
      | .ok (loc, t, s) =>
        if t.isSystem then .error (.fail causePageRange va)
        else
          match State.windowParts part need fuel s (va + BitVec.ofNat 64 k) (n - k) with
          | .error e => .error e
          | .ok (xs, s) => .ok ((loc, k) :: xs, s)

/-- Write bytes to successive parts. -/
def State.writeParts : State → List (Nat × Nat) → List Byte → State
  | s, [], _ => s
  | s, (loc, k) :: xs, bs => State.writeParts (s.commitBytes loc (bs.take k)) xs (bs.drop k)

/-- R46: the parts of a request: one where it has one, two, four or eight bytes and is aligned; otherwise the aligned
eight-byte parts, and single bytes where a write starts or ends inside one. -/
def windowSplit (va n : Nat) (write : Bool) : List (Nat × Nat) :=
  if (n == 1 || n == 2 || n == 4 || n == 8) && va % n == 0 then [(0, n)]
  else (moveParts va (n / 8 + 2) 0 n).flatMap fun x =>
    if write && x.2 < 8 then (List.range x.2).map fun i => (x.1 + i, 1) else [x]

/-- R46: a request whose parts are performed later, one by one. -/
def State.windowLater (s : State) (part : Nat) (va : Word) (n : Nat) (data : Option (List Byte)) : Res :=
  let p := s.part part
  .next (s.setPart part { p with winMoves := p.winMoves ++
    [{ addr := va, data, todo := windowSplit va.toNat n data.isSome, fin := .window }] })

/-- WINDOW_WRITE (R24, R46): one request, which carries at most 512 bytes; its parts are performed at once or, where the turn
says so, one by one. -/
def execWindowWrite (fn off : Nat) (bytes : List Byte) (s : State) : Res :=
  if 512 < bytes.length then .fault .notEnabled
  else
    s.barAccess fn off (2 ^ 36) 0 fun part o =>
      match State.windowParts part .write (bytes.length / 8 + 2) s ((s.part part).windowAddr o) bytes.length with
      | .error .wait => .fault .notEnabled
      | .error (.fail c a) => .next ((s.touchFail part c a.toNat).partErr part 4)
      | .ok (xs, s) =>
        if s.limit = some 0 && !bytes.isEmpty then s.windowLater part ((s.part part).windowAddr o) bytes.length (some bytes)
        else .next (s.writeParts xs bytes)

/-- WINDOW_READ (R46): its parts are read at once or, where the turn says so, one by one. -/
def execWindowRead (fn off len : Nat) (s : State) : Res :=
  if 4096 < len then .fault .notEnabled
  else
    s.barAccess fn off (2 ^ 36) len fun part o =>
      match State.windowParts part .read (len / 8 + 2) s ((s.part part).windowAddr o) len with
      | .error .wait => .fault .notEnabled
      | .error (.fail c a) => .next (((s.touchFail part c a.toNat).partErr part 4).reply (List.replicate len 0xFF))
      | .ok (xs, s) =>
        if s.limit = some 0 && len != 0 then s.windowLater part ((s.part part).windowAddr o) len none
        else .next (s.reply (xs.flatMap fun x => s.bytesAt x.1 x.2))

/-! ## AtomicOps and CXL.mem (R24) -/

/-- R24: the widths of an AtomicOp. -/
def HostOp.offers : HostOp → Nat → Bool
  | .cas, n => n == 4 || n == 8 || n == 16
  | _, n => n == 4 || n == 8

/-- The new value of an AtomicOp on `old`: FetchAdd and Swap take `x`; CAS compares with `x` and writes `y`. -/
def HostOp.apply (op : HostOp) (n old x y : Nat) : Nat :=
  match op with
  | .fetchAdd => (old + x) % 2 ^ (8 * n)
  | .swap => x % 2 ^ (8 * n)
  | .cas => if old = x % 2 ^ (8 * n) then y % 2 ^ (8 * n) else old

/-- R24, R46: an AtomicOp of the host on the device-memory window, one point in the order; its completion carries the
value before. -/
def State.hostAtomic (s : State) (fn off n : Nat) (op : HostOp) (x y : Nat) : Res :=
  if !op.offers n then .fault .notEnabled
  else
    s.barAccess fn off (2 ^ 36) n fun part o =>
      let failed := fun (s : State) => Host.Outcome.next ((s.partErr part 4).reply (List.replicate n 0xFF))
      match s.agentAccess part ((s.part part).windowAddr o).toNat n .write with
      | .error none => .fault .notEnabled
      | .error (some c) => failed (s.touchFail part c ((s.part part).windowAddr o).toNat)
      | .ok (loc, t, s') =>
        if t.isSystem then failed s
        else
          let old := leNat (s'.bytesAt loc n)
          .next ((s'.commitBytes loc (leBytes n (op.apply n old x y))).reply (leBytes n old))

/-- R24: host-managed device memory is populated HBM and the second tier (log 86). -/
def Package.inHdm (p : Package) (pa n : Nat) : Bool := (List.range n).all fun i => inHbm (pa + i) || p.inTier (pa + i)

/-- R24, R36: a request of the host for `n` bytes of host-managed device memory, within one line (log 86), answered by `f`; in
recovery nothing answers. -/
def State.hdmAccess (s : State) (pa n : Nat) (f : State → State) : Res :=
  if !s.hostArrives || !s.pkg.inHdm pa n || 128 < pa % 128 + n then .fault .notEnabled
  else if s.pkg.recovery then .next (s.reply [])
  else .next (f s)

/-- R24: a write of the host to host-managed device memory. -/
def State.hdmWrite (s : State) (pa : Nat) (bytes : List Byte) : Res := s.hdmAccess pa bytes.length fun s => s.commitBytes pa bytes

/-- R24: a read by the host of host-managed device memory. -/
def State.hdmRead (s : State) (pa n : Nat) : Res := s.hdmAccess pa n fun s => s.reply (s.bytesAt pa n)

/-! ## The host's own memory (R58, R189) -/

/-- R58: the host's write takes the lines of `n` bytes at `a` from the host agent. -/
def State.snoopLines (s : State) (a n : Nat) : State :=
  { s with pkg := { s.pkg with hostHeld := s.pkg.hostHeld.filter fun x => x.1 < hostLine a || hostLine (a + n - 1) < x.1 } }

/-- R189: the host writes its own memory. -/
def State.hostWrite (s : State) (a : Nat) (bytes : List Byte) : Res :=
  .next ((s.snoopLines a bytes.length).commitBytes (hostLoc a) bytes)

/-- R189: the host compares and swaps a value of its own memory, and sees the value before. -/
def State.hostSwap (s : State) (a n old new : Nat) : Res :=
  let s := s.snoopLines a n
  let was := leNat (s.bytesAt (hostLoc a) n)
  let s := s.reply (leBytes n was)
  .next (if was = old then s.commitBytes (hostLoc a) (leBytes n new) else s)

/-! ## The counter aperture (R49) -/

/-- First offset of the wake window in the partition's megabyte. -/
def wakeWindow : Nat := 0x80000

/-- APERTURE_WRITE (R49): an aligned 8-byte host write of `n`. -/
def execApertureWrite (fn off : Nat) (n : Word) (s : State) : Res :=
  if off % 8 ≠ 0 then .fault .notEnabled
  else
    s.barAccess fn off (2 ^ 20) 0 fun part o =>
      if wakeWindow ≤ o then .fault .notEnabled else s.apertureWrite part (o / 8) n

/-- Eight bytes of ones. -/
def allOnes : List Byte := List.replicate 8 0xFF

/-- APERTURE_READ (R49): an aligned 8-byte host read.  What a read of the wake window, or through an entry with a reserved
field, returns is open. -/
def execApertureRead (fn off : Nat) (s : State) : Res :=
  if off % 8 ≠ 0 then .fault .notEnabled
  else
    s.barAccess fn off (2 ^ 20) 8 fun part o =>
      let open_ := (List.range 8).map (Config.freeHost s.free)
      if wakeWindow ≤ o then .next (s.reply open_)
      else
        match s.aperture part (o / 8) .read with
        | (.unmapped, s) => .next ((s.partErr part 0).reply allOnes)
        | (.failed, s) => .next ((s.partErr part 2).reply allOnes)
        | (.reserved ea, s) => .next ((s.mapHalt part ea).reply open_)
        | (.busy, _) => .fault .notEnabled
        | (.counter _ loc, s) => .next (s.reply (s.bytesAt loc 8))

/-- APERTURE_BAD_ACCESS (R49): any other access to the aperture sets CAP_SIZE; the wake window takes none (R435). -/
def execApertureBadAccess (fn off len : Nat) (write : Bool) (s : State) : Res :=
  if off % 8 = 0 && len = 8 then .fault .notEnabled
  else
    s.barAccess fn off (2 ^ 20) len fun part o =>
      if wakeWindow ≤ o then .next (if write then s else s.reply ((List.range len).map (Config.freeHost s.free)))
      else .next (if write then s.partErr part 1 else (s.partErr part 1).reply (List.replicate len 0xFF))

/-! ## The wake window (R55) -/

/-- The group parked by SCALL on a slot; of two on one slot that was used again, the first of `groups` (log 84). -/
def State.parkedCall (s : State) (part slot : Nat) : Option Nat :=
  (List.find? (fun (x : Nat × Group) => x.2.part == part && match x.2.park with
    | some (.call _ y) => y == slot
    | _ => false) s.groups).map (·.1)

/-- R55: `n` is subtracted from wake word `slot`. WAKE_IDLE reports a word that is not positive (R55); DESIGN CHOICE: a
positive word on whose slot no group is parked is counted down, and nothing is set (log 104). -/
def State.wakeSlot (s : State) (part slot : Nat) (n : Word) : Res :=
  match s.agentLoc part ((s.part part).wakeAddr slot) 8 .write with
  | .error .wait => .fault .notEnabled
  | .error (.fail c a) => .next ((s.touchFail part c a.toNat).partErr part 4)
  | .ok (loc, s) =>
    let old := s.wordAt loc
    if old.toInt ≤ 0 then .next (s.partErr part 3)
    else
      let s := s.commitBytes loc (wordBytes 8 (old - n))
      match s.parkedCall part slot with
      | some k =>
        let g := s.group k
        .next (if (s.team g.team).phase == .resident && g.wakeable then s.resumeCall k else s)
      | none => .next s

/-- WAKE_WRITE (R55): an aligned 8-byte host write of `n` to the wake window. -/
def execWakeWrite (fn off : Nat) (n : Word) (s : State) : Res :=
  if off % 8 ≠ 0 then .fault .notEnabled
  else
    s.barAccess fn off (2 ^ 20) 0 fun part o =>
      if o < wakeWindow then .fault .notEnabled
      else
        match (s.part part).ringLog with
        | none => .next s
        | some log =>
          let slot := (o - wakeWindow) / 8
          if n.toInt ≤ 0 || 2 ^ log ≤ slot then .next s else s.wakeSlot part slot n

end Sys2Proof.Machine
end

