-- ==== Sys2Proof/Machine/Issue.lean ====
section
/-! DEFINITION. Sys2Proof/Machine/Issue.lean: fetching a word (R121, R316), and what issuing one means: the next control
word, the next lane word, skipping (R136, R236, R315), the ends of a block that follow from LIVE (R124), and the start
of a block (R123, R144). -/

namespace Sys2Proof.Machine

/-- R165, R316: 32 bits of code of the acting group's partition as they stand at a virtual address; or a failing check, or
nothing while a translation is awaited. -/
def State.codeAt (s : State) (va : Word) : Except (Option (BitVec 8)) (Word32 × State) :=
  if 2 ^ 57 ≤ va.toNat then .error (some causeBadWindow)
  else if va.toNat % 4 != 0 then .error (some causeMisaligned)
  else
    match s.checkVa s.g.part va.toNat .exec false with
    | .fault c => .error (some c)
    | .busy => .error none
    | .ok t marks skip starve =>
      .ok (BitVec.ofNat 32 (leNat (s.bytesAt t.loc 4)), (s.applyMarks marks skip starve).holdLine s.g.part t false)

/-- R316: a word of code that the team has fetched ahead, before a write changed it, may be the one that issues (log 120). -/
def State.codeWord (s : State) (va : Word) (w : Word32) : Word32 :=
  match s.t.ahead.find? fun x => x.1 == va with
  | some x => if Config.choice s.free (2 ^ 80 + va.toNat) % 2 = 1 then x.2 else w
  | none => w

/-- R316: the fetch of 32 bits of code. -/
def State.fetch32 (s : State) (va : Word) : Except (Option (BitVec 8)) (Word32 × State) :=
  match s.codeAt va with
  | .ok (w, s') => .ok (s.codeWord va w, s')
  | .error e => .error e

/-- R316: the 32 bits at an address are fetched ahead for a team on its core. -/
def State.aheadTurn (s : State) (team : Nat) (va : Word) : Res :=
  if (s.team team).phase != .resident then .fault .notEnabled
  else
    match { s with actor := team * 32 }.codeAt va with
    | .ok (w, s) => .next (s.setTeam team { s.team team with ahead := (va, w) :: (s.team team).ahead.filter (·.1 != va) })
    | .error _ => .fault .notEnabled

/-- R121: the byte address of lane word `w`. -/
def State.laneAddr (s : State) (w : Nat) : Word := s.t.type.laneBase + BitVec.ofNat 64 (12 * w)

/-- R121, R316: lane word `w`, whose thirds may lie on two pages. -/
def State.fetchLane (s : State) (w : Nat) : Except (Option (BitVec 8)) (LaneWord × State) := do
  let a := s.laneAddr w
  let (x, s) ← s.fetch32 a
  let (y, s) ← s.fetch32 (a + 4)
  let (z, s) ← s.fetch32 (a + 8)
  return (z ++ y ++ x, s)

/-- R100: the group may issue: resident, not stopped, not waiting for a restart, in a cluster whose clock is stable. -/
def State.mayIssue (s : State) (stream : Bool) : Bool :=
  let g := s.g
  s.t.phase == .resident && !g.retired && (g.stop == .none || (g.stepping == some stream && !g.stepOver)) && !g.restarting &&
  (s.cluster (clusterOf s.t.core)).throttleNs == 0

/-- R276: the halt line or a stop broadcast had reached the acting group when the word that its stream issues, or goes on
with, was issued. -/
def State.skidDue (s : State) (control : Bool) : Bool :=
  match s.midOf control with
  | some m => m.late
  | none => s.lineReached s.actor

/-- R276: count an instruction of the acting group that was issued so. -/
def State.countSkid (s : State) (due : Bool) : State := if due then s.setG { s.g with skid := s.g.skid + 1 } else s

/-- The control stream has a word to issue. -/
def State.controlDue (s : State) : Bool := s.mayIssue true && !s.g.ended && s.g.park.isNone

/-- The word of the acting group's stream that is under way. -/
def State.midWord (s : State) (control : Bool) : Option LaneWord := (s.midOf control).map (·.word)

/-- Remember the word that is under way, and whether it was issued late (R276). -/
def State.keepWord (control : Bool) (w : LaneWord) (late : Bool) (s : State) : State :=
  { s with mid := s.mid.map fun m => if s.ownMid control m then { m with word := w, late } else m }

/-- R111, R114: count an issue of the control stream, unless the instruction waits or faulted.  END issues when its group
retires. -/
def State.countControl (s before : State) : State :=
  let g := s.g
  if g.cwait.isSome || g.stop == .halt then s
  else if g.ended || g.ctlIssued ≠ before.g.ctlIssued then s.setG (g.stepped true)
  else
    ((s.setG { g.stepped true with ctlIssued := g.ctlIssued + 1 }).countSkid (before.skidDue true)).takeSlot s.actor true
      (before.g.stop != .debug)

/-- R111, R114: count an issue of the lane stream. -/
def State.countLane (s before : State) (paired : Bool) : State :=
  let g := s.g
  if g.lwait.isSome || g.stop == .halt then s
  else
    let s := (s.setG { g.stepped false with
      laneIssued := g.laneIssued + 1, paired := g.paired + b2n paired }).countSkid (before.skidDue false)
    if paired then s.shareSlot s.actor else s.takeSlot s.actor false (before.g.stop != .debug)

/-- Apply `f` to a next state. -/
def Res.andThen (r : Res) (f : State → State) : Res :=
  match r with
  | .next s => .next (f s)
  | .fault x => .fault x
  | .refused x => .refused x

/-- Execute a control word under R314. -/
def State.runControl (run : Instr → State → Res) (w : Word32) (s : State) : Res :=
  match decodeControl w with
  | .error _ => s.illegal
  | .ok i => (run i s).andThen fun t => (t.countControl s).keepWord true (w.setWidth 96) (s.skidDue true)

/-- The control stream's next word issues; `run` is the meaning of an instruction. -/
def State.issueControl (run : Instr → State → Res) (s : State) : Res :=
  let g := s.g
  if !s.controlDue then .fault .notEnabled
  else if g.walks true then s.ctlWait .translate
  else
    match s.midWord true with
    | some w => s.runControl run (w.setWidth 32)
    | none =>
      match s.fetch32 g.cpc with
      | .error none => s.ctlWait .translate
      | .error (some c) => s.fault c g.cpc 0
      | .ok (w, s') => s'.runControl run w

/-! ## The lane stream -/


/-- Major opcode of a lane word. -/
def laneOpcode (w : LaneWord) : Nat := (w.extractLsb' 88 8).toNat

/-- Execute a lane word under R314. -/
def State.runLane (run : Instr → State → Res) (w : LaneWord) (paired : Bool) (s : State) : Res :=
  match decodeLane w with
  | .error _ => s.illegal
  | .ok i => (run i (s.setG { s.g with lwait := none })).andThen fun t =>
    (t.countLane s paired).keepWord false w (s.skidDue false)

/-- R136: the stream passes a word without executing it. -/
def State.passWord (s : State) (skip : Nat) : Res :=
  .next (s.setG { s.g with lpc := s.g.lpc + 1, skip, lwait := some .maskStk })

/-- R136: a word that the skipping stream meets.  DESIGN CHOICE: a LEND at an empty mask stack issues, and so its fields are
checked first (R314, log 118). -/
def State.skipWord (run : Instr → State → Res) (w : LaneWord) (paired : Bool) (s : State) : Res :=
  let g := s.g
  let op := laneOpcode w
  if op = 0x50 || op = 0x53 then s.passWord (g.skip + 1)
  else if g.skip = 0 && (op = 0x51 || op = 0x52 || op = 0x56) then s.runLane run w paired
  else if op = 0x52 || op = 0x56 then s.passWord (g.skip - 1)
  else if op = 0x58 then
    if g.stack.isEmpty then s.runLane run w paired else s.fault causeMaskUnbal 0 0
  else s.passWord g.skip

/-- R136, R236: the word at TXTGT, reached at skip depth 0 with a transaction open.  Where the stream was skipping, XEND
finds TXD at 1, unless it faults (R9). -/
def State.targetWord (run : Instr → State → Res) (w : LaneWord) (skipping : Bool) (s : State) : Res :=
  if laneOpcode w ≠ 0x81 then s.fault causeMaskUnbal 0 0
  else if skipping then
    ((s.setG { s.g with tx := { s.g.tx with depth := 1 } }).runLane run w false).andThen fun t =>
      if t.g.stop = .halt then t.setG { t.g with tx := { t.g.tx with depth := s.g.tx.depth } } else t
  else s.runLane run w false

/-- R239: the watchdog is due. -/
def Group.timedOut (g : Group) : Bool := decide (65536 ≤ g.tx.watch) && g.tx.active != 0 && !g.tx.serial

/-- The lane stream's next word issues. -/
def State.issueLane (run : Instr → State → Res) (paired : Bool) (s : State) : Res :=
  let g := s.g
  if !s.mayIssue false || !g.running || g.timedOut then .fault .notEnabled
  else if g.live = 0 then .next (s.setG g.endBlock)
  else if 2 ^ 17 ≤ g.lpc then s.illegal
  else if g.walks false then s.laneWait .translate
  else
    match s.midWord false with
    | some w => s.runLane run w paired
    | none =>
      match s.fetchLane g.lpc with
      | .error none => s.laneWait .translate
      | .error (some c) => s.fault c (s.laneAddr g.lpc) 0
      | .ok (w, s) =>
        if g.tx.depth != 0 && g.skip == 0 && g.lpc == g.tx.tgt.toNat then s.targetWord run w (g.cur == 0)
        else if g.cur = 0 then s.skipWord run w paired
        else s.runLane run w paired

/-- R102: lane opcodes that no pair carries. -/
def neverPaired (op : Nat) : Bool := (0x60 ≤ op && op ≤ 0x6F) || (0x80 ≤ op && op ≤ 0x8F) || op == 0x44

/-- R102: the groups may issue as a pair: of one team and port, at one lane PC, with disjoint execution masks, the
winner's of at most 16 lanes, at a word that may be paired. -/
def State.mayPair (s : State) (winner partner : Nat) : Bool :=
  let g := s.group winner
  let h := s.group partner
  winner != partner && g.team == h.team && g.port == h.port && g.lpc == h.lpc && popcount g.execMask ≤ 16 &&
  g.execMask &&& h.execMask == 0 &&
  match ({ s with actor := winner }.fetchLane g.lpc) with
  | .ok (w, _) => !neverPaired (laneOpcode w)
  | .error _ => false

/-- R143: both streams of a group issue in one clock.  The control word goes first, so that a trap of the lane stream
resumes after it; a CPOP that meets a YIELD follows it (R125); a BRK that meets a trap of the lane stream is held. -/
def State.issueDual (run : Instr → State → Res) (s : State) : Res :=
  let g := s.g
  let ctl := match s.fetch32 g.cpc with
    | .ok (w, _) => (decodeControl w).toOption
    | .error _ => none
  let laneOp := match s.fetchLane g.lpc with
    | .ok (w, _) => laneOpcode w
    | .error _ => 0
  let thenControl := fun (r : Res) => match r with
    | .next s => s.issueControl run
    | r => r
  match ctl with
  | some (.cpop _) => if laneOp = 0x59 then thenControl (s.issueLane run false) else both s
  | some (.brk c) =>
    if bit s.p.dbg.ctl 0 || s.regionHeld || g.inHandler || !s.controlDue then both s
    else
      match s.issueLane run false with
      | .next s' =>
        if s'.g.inHandler then
          .next (((s'.setG { s'.g with
            trapInfo1 := g.cpc + 4, ctlIssued := s'.g.ctlIssued + 1
            heldTrap := some { cause := causeBrk, pc := g.cpc, lanes := 0, detail := c.setWidth 32, info2 := 0
                               control := true, tx := false } }).countSkid (s.skidDue true)).takeSlot s'.actor true
                               (g.stop != .debug))
        else if s'.g.stop = .halt then .next s' else s'.issueControl run
      | r => r
  | _ => both s
where
  /-- The control word, then the lane word. -/
  both (s : State) : Res :=
    match s.issueControl run with
    | .next s' => s'.issueLane run false
    | r => r

/-! ## The start of a block -/

/-- R123: a block starts. -/
def Group.startBlock (g : Group) (b : LaneBlock) : Group :=
  { g with
    running := true, lpc := b.start.toNat, a := (List.range 8).foldl (fun m j => SMap.set 0 m j (b.args.getD j 0)) []
    l := [], cur := g.live, stack := [], skip := 0, lfmt := b.fmt, lwait := none }

/-- LANE_BLOCK_START (R123, R144): the idle lane stream starts the handler block, which keeps its position until it ends,
or the oldest entry of the lane queue, which is frozen in the handler. -/
def execLaneBlockStart (group : Nat) (s : State) : Res :=
  let s := { s with actor := group }
  let g := s.g
  if g.running || !s.mayIssue false then .fault .notEnabled
  else if g.inHandler then
    match g.handlerBlock with
    | some b => .next (s.setG (g.startBlock b))
    | none => .fault .notEnabled
  else
    match g.lq with
    | b :: q => .next (s.setG ({ g with lq := q }.startBlock b))
    | [] => .fault .notEnabled

end Sys2Proof.Machine
end

