-- ==== Sys2Proof/Machine/LaneFloat.lean ====
section
/-! DEFINITION. Sys2Proof/Machine/LaneFloat.lean: the per-lane floating-point words (R377-R383) and the tag words
(R389, R390). -/

namespace Sys2Proof.Machine

/-- What a floating-point word computes for one element: its encoding and its tag. -/
abbrev ElemOp := Fmt → List TVal → Nat × Nat

/-- A source of one element of a pair: its value as a flushing operation reads it, with the register's tag (R377). -/
def Group.pairVal (g : Group) (f : LaneFields) (x : Operand) (i code el : Nat) : TVal :=
  let F := fmtOf code
  let p := g.readPair f x i code
  ⟨F.flushSource (fmtBits g.lfmt) (F.decode (if el = 0 then p.1 else p.2)), g.floatTag x i F.p⟩

/-- R377: a floating-point word in one lane: the scalar, or both elements of a pair with the lower tag. -/
def Group.floatLane (g : Group) (f : LaneFields) (srcs : List Operand) (i : Nat) (op : ElemOp) : LaneOut :=
  let code := f.ty.toNat
  let F := fmtOf code
  if code ≤ 1 then
    let r := op F (srcs.map fun x => g.floatVal f x i code)
    { bits := r.1, tag := r.2 }
  else
    let lo := op F (srcs.map fun x => g.pairVal f x i code 0)
    let hi := op F (srcs.map fun x => g.pairVal f x i code 1)
    { bits := lo.1 + hi.1 * 2 ^ 16, tag := min lo.2 hi.2 }

/-- Registers of a floating-point value. -/
def floatRegs (f : LaneFields) : Nat := if f.ty = 1 then 2 else 1

/-- R370, R373: a floating-point word, checked by the significance trap. -/
def State.floatWord (s : State) (f : LaneFields) (srcs : List Operand) (op : ElemOp) : Res :=
  s.laneOp f (floatRegs f) true fun i => s.g.floatLane f srcs i op

/-- Operand `n` of an element. -/
def tval (xs : List TVal) (n : Nat) : TVal := xs.getD n ⟨.nan, 0⟩

/-- R377: the rounded sum of some operands with its tag. -/
def sumElem (F : Fmt) (b : FmtBits) (mode : Nat) (x y : TVal) : Nat × Nat :=
  let e := fadd (mode == 3) x.v y.v
  let r := F.rnd b mode e
  (F.encode r.val, tagOfSum F e r [x, y])

/-- A rounded result with the tag that a rule gives. -/
def ruleElem (F : Fmt) (b : FmtBits) (mode : Nat) (e : FVal) (tag : Nat) : Nat × Nat :=
  let r := F.rnd b mode e
  (F.encode r.val, tagSteps F e r tag)

/-- R377: FADD. -/
def execFadd (f : LaneFields) (s : State) : Res :=
  s.floatWord f [f.a, f.b] fun F xs => sumElem F (fmtBits s.g.lfmt) (s.g.mode f) (tval xs 0) (tval xs 1)

/-- R377: FSUB. -/
def execFsub (f : LaneFields) (s : State) : Res :=
  s.floatWord f [f.a, f.b] fun F xs =>
    let y := tval xs 1
    sumElem F (fmtBits s.g.lfmt) (s.g.mode f) (tval xs 0) ⟨y.v.negate, y.s⟩

/-- R377: FMUL. -/
def execFmul (f : LaneFields) (s : State) : Res :=
  s.floatWord f [f.a, f.b] fun F xs =>
    let x := tval xs 0
    let y := tval xs 1
    ruleElem F (fmtBits s.g.lfmt) (s.g.mode f) (Machine.fmul x.v y.v) (tagMul F.p x.s y.s)

/-- R377: FFMA. -/
def execFfma (f : LaneFields) (s : State) : Res :=
  s.floatWord f [f.a, f.b, f.c] fun F xs =>
    let x := tval xs 0
    let y := tval xs 1
    sumElem F (fmtBits s.g.lfmt) (s.g.mode f) ⟨Machine.fmul x.v y.v, tagMul F.p x.s y.s⟩ (tval xs 2)

/-! ## FMIN and FMAX (R378) -/

/-- R378: `a` counts as less than `b`; neither is NaN. -/
def minLess (a b : FVal) : Bool :=
  let d := fcmp a b
  d < 0 || (d == 0 && a.isZero && b.isZero && a.neg? && !b.neg?)

/-- R378: the operand chosen: `none` where both are NaN.  Between equal values either source may be the chosen one, as
`first` says. -/
def minChoice (max first : Bool) (a b : FVal) : Option Bool :=
  if a = .nan && b = .nan then none
  else if a = .nan then some false
  else if b = .nan then some true
  else if minLess a b then some (!max)
  else if minLess b a then some max
  else some first

/-- The tag of a source's register as a choice copies it: the stored tag, or p where none is stored. -/
def Group.sourceTag (g : Group) (x : Operand) (i p : Nat) : Nat := ((g.storedTag x i).map (·.toNat)).getD p

/-- R378: one element of FMIN or FMAX, from the encodings of the sources; `op` numbers the operation for the pick between
equal operands. -/
def Group.minElem (g : Group) (f : LaneFields) (i : Nat) (max : Bool) (op : Nat) (x y : Nat) : Nat × Nat :=
  let F := fmtOf f.ty.toNat
  let b := fmtBits g.lfmt
  let u := F.flushSource b (F.decode x)
  let v := F.flushSource b (F.decode y)
  let tx := g.sourceTag f.a i F.p
  let ty := g.sourceTag f.b i F.p
  match minChoice max (Config.equalPick op g.lfmt x tx y ty) u v with
  | none => (F.nan, 0)
  | some true => (if u.isZero then F.encode u else x, tx)
  | some false => (if v.isZero then F.encode v else y, ty)

/-- R378: FMIN or FMAX in one lane. -/
def State.minLane (s : State) (f : LaneFields) (max : Bool) (i : Nat) : LaneOut :=
  let g := s.g
  let code := f.ty.toNat
  let op := 2 * code + b2n max
  if code ≤ 1 then
    let r := g.minElem f i max op (g.readFloat f f.a i code) (g.readFloat f f.b i code)
    { bits := r.1, tag := r.2, p := (fmtOf code).p }
  else
    let x := g.readPair f f.a i code
    let y := g.readPair f f.b i code
    let lo := g.minElem f i max op x.1 y.1
    let hi := g.minElem f i max (op + 8) x.2 y.2
    { bits := lo.1 + hi.1 * 2 ^ 16, tag := min lo.2 hi.2, p := (fmtOf code).p }

/-- R378: FMIN. -/
def execFmin (f : LaneFields) (s : State) : Res := s.laneOp f (floatRegs f) true (s.minLane f false)

/-- R378: FMAX. -/
def execFmax (f : LaneFields) (s : State) : Res := s.laneOp f (floatRegs f) true (s.minLane f true)

/-! ## Reciprocal, roots and transcendentals -/

/-- R379: FRCP. -/
def execFrcp (f : LaneFields) (s : State) : Res :=
  s.floatWord f [f.a] fun F xs =>
    let x := tval xs 0
    ruleElem F (fmtBits s.g.lfmt) (s.g.mode f) (Machine.frcp x.v) (tagMul F.p x.s F.p)

/-- R379: FRSQ. -/
def execFrsq (f : LaneFields) (s : State) : Res :=
  s.floatWord f [f.a] fun F xs =>
    let x := tval xs 0
    ruleElem F (fmtBits s.g.lfmt) (s.g.mode f) (Machine.frsq x.v) (tagMul F.p (min F.p (x.s + 1)) F.p)

/-- R263: the tag of a square root; a zero with a tag below p gives it no more. -/
def tagSqrt (p : Nat) (x : TVal) : Nat := if x.v.isZero && decide (x.s < p) then x.s else min p (x.s + 1)

/-- R379: FSQRT. -/
def execFsqrt (f : LaneFields) (s : State) : Res :=
  s.floatWord f [f.a] fun F xs =>
    let x := tval xs 0
    ruleElem F (fmtBits s.g.lfmt) (s.g.mode f) (Machine.fsqrt x.v) (tagSqrt F.p x)

/-- R380: a transcendental; a zero that is no exact case is a non-zero exact result rounded to zero (R263 step 3). -/
def State.transWord (s : State) (f : LaneFields) (t : Trans) : Res :=
  s.floatWord f [f.a] fun F xs =>
    let x := tval xs 0
    let e := t.value (BitVec.ofNat 32 (F.encode x.v)) (s.g.mode f) s.g.lfmt x.v
    ruleElem F (fmtBits s.g.lfmt) (s.g.mode f) e
      (if e.isZero && !(t.approx x.v).2 then 0 else min (x.s - 1) (F.p - 2))

/-- R380: FEXP2. -/
def execFexp2 (f : LaneFields) (s : State) : Res := s.transWord f .exp2
/-- R380: FLOG2. -/
def execFlog2 (f : LaneFields) (s : State) : Res := s.transWord f .log2
/-- R380: FTANH. -/
def execFtanh (f : LaneFields) (s : State) : Res := s.transWord f .tanh
/-- R380: FSIN. -/
def execFsin (f : LaneFields) (s : State) : Res := s.transWord f .sin
/-- R380: FCOS. -/
def execFcos (f : LaneFields) (s : State) : Res := s.transWord f .cos

/-! ## FRND, FSET, FCLASS -/

/-- R381: FRND. -/
def execFrnd (f : LaneFields) (s : State) : Res :=
  s.floatWord f [f.a] fun F xs =>
    let x := tval xs 0
    let e := frndInt (s.g.mode f) x.v
    let r := F.rnd (fmtBits s.g.lfmt) (s.g.mode f) e
    (F.encode r.val,
      if r.val.isZero then (if x.v.isNZ then 0 else min x.s F.p) else tagSteps F e r (tagAdd F.p r.val.E [x]))

/-- R382: FSET. -/
def execFset (f : LaneFields) (s : State) : Res :=
  s.laneOp f 1 false fun i =>
    let g := s.g
    let code := f.ty.toNat
    let test := fun (x y : TVal) => b2n (floatCond f.sub.toNat x.v y.v)
    { bits :=
        if code ≤ 1 then test (g.floatVal f f.a i code) (g.floatVal f f.b i code)
        else test (g.pairVal f f.a i code 0) (g.pairVal f f.b i code 0) +
          2 * test (g.pairVal f f.a i code 1) (g.pairVal f f.b i code 1) }

/-- R383: FCLASS. -/
def execFclass (f : LaneFields) (s : State) : Res :=
  s.laneOp f 1 false fun i =>
    let code := f.ty.toNat
    let F := fmtOf code
    { bits :=
        if code ≤ 1 then 2 ^ floatClass F (s.g.readFloat f f.a i code)
        else
          let p := s.g.readPair f f.a i code
          2 ^ floatClass F p.1 + 2 ^ (16 + floatClass F p.2) }

/-! ## Tag words (R389, R390) -/

/-- R389: t_X. -/
def Group.tagOf (g : Group) (f : LaneFields) (x : Operand) (i : Nat) : Nat := g.floatTag x i (fmtOf f.ty.toNat).p

/-- The bits of a value at the type's width: an immediate or a constant as a floating-point source of the type. -/
def Group.tagBits (g : Group) (f : LaneFields) (x : Operand) (i : Nat) : Nat :=
  let code := f.ty.toNat
  if code ≤ 1 then g.readFloat f x i code
  else
    let p := g.readPair f x i code
    p.1 + p.2 * 2 ^ 16

/-- R389: TAGQ. -/
def execTagq (f : LaneFields) (s : State) : Res := s.laneOp f 1 false fun i => { bits := s.g.tagOf f f.a i }

/-- R389: TAGG. -/
def execTagg (f : LaneFields) (s : State) : Res :=
  s.laneOp f 1 false fun i => { bits := b2n (s.g.readInt f f.b i 1 ≤ s.g.tagOf f f.a i) }

/-- R389: TAGM. -/
def execTagm (f : LaneFields) (s : State) : Res :=
  s.laneOp f (floatRegs f) false fun i => { bits := s.g.tagBits f f.a i, tag := min (s.g.tagOf f f.a i) (s.g.tagOf f f.b i) }

/-- R390: A, or an element of a pair, is NaN or infinite. -/
def Group.nonFinite (g : Group) (f : LaneFields) (i : Nat) : Bool :=
  let code := f.ty.toNat
  let F := fmtOf code
  if code ≤ 1 then (F.decode (g.readFloat f f.a i code)).isSpecial
  else
    let p := g.readPair f f.a i code
    (F.decode p.1).isSpecial || (F.decode p.2).isSpecial

/-- R390: the lanes that TAGS traps in. -/
def Group.tagsLanes (g : Group) (f : LaneFields) : Word32 :=
  maskOf fun i =>
    let b := g.readInt f f.b i 1
    lane (g.active f.guard) i && !lane g.helpers i &&
      (decide ((fmtOf f.ty.toNat).p < b) || (b != 0 && g.nonFinite f i))

/-- R389, R390: TAGS. -/
def execTags (f : LaneFields) (s : State) : Res :=
  if !s.fileOk f then s.illegal
  else
    let g := s.g
    let m := g.tagsLanes f
    let p := (fmtOf f.ty.toNat).p
    let out := fun (i : Nat) =>
      let b := g.readInt f f.b i 1
      ({ bits := g.tagBits f f.a i, tag := if lane m i && g.nonFinite f i then 0 else min b p } : LaneOut)
    s.laneTrap (g.applyLanes f (floatRegs f) out) <|
      (lowestLane m).map fun low =>
        { cause := causeTagOp, pc := BitVec.ofNat 64 g.lpc, lanes := m, detail := BitVec.ofNat 32 low, info2 := 0
          control := false, tx := false }

end Sys2Proof.Machine
end

