-- ==== Sys2Proof/Machine/LaneConvert.lean ====
section
/-! DEFINITION. Sys2Proof/Machine/LaneConvert.lean: the per-lane conversions (R384-R388). -/

namespace Sys2Proof.Machine

/-- R384, R311: the floating-point value of an operand in format `code`, with its tag S, E8M0 included; a constant gives
its value exactly in every format.  DESIGN CHOICE: tag 63 of a loaded source stands for the p of the result, and a constant has
that of its own format (log 115). -/
def Group.cvtSource (g : Group) (f : LaneFields) (x : Operand) (i code : Nat) : TVal :=
  let F := fmtOf code
  match x with
  | .v _ | .o _ | .l _ | .a _ | .imm =>
    if code = 0xE then ⟨ofE8m0 (g.readInt f x i 1 % 256), 63⟩
    else ⟨F.flushSource (fmtBits g.lfmt) (F.decode (g.readFloat f x i code)), g.sourceTag x i F.p⟩
  | c => ⟨ofInt (constantOf c i g.idx) 0, if code = 0xE then 63 else F.p⟩

/-- R385: the conversion of a value to format F under the lane's FMT, with its tag. -/
def Group.convertTo (g : Group) (F : Fmt) (mode : Nat) (x : TVal) : Nat × Nat :=
  ruleElem F (fmtBits g.lfmt) mode x.v (min x.s F.p)

/-- R385: CVT. -/
def execCvt (f : LaneFields) (s : State) : Res :=
  let t := f.ty.toNat
  s.laneOp f (if t = 1 then 2 else 1) (t != 0xE) fun i =>
    let x := s.g.cvtSource f f.a i f.sub.toNat
    if t = 0xE then { bits := toE8m0 x.v }
    else
      let r := s.g.convertTo (fmtOf t) (s.g.mode f) x
      { bits := r.1, tag := r.2 }

/-- R384: the integer of an operand in integer format `code`. -/
def Group.cvtInt (g : Group) (f : LaneFields) (x : Operand) (i code : Nat) : Int :=
  let b := g.readInt f x i 1
  match code with
  | 0xA => (BitVec.ofNat 8 b).toInt
  | 0xB => (BitVec.ofNat 16 b).toInt
  | 0xC => (BitVec.ofNat 32 b).toInt
  | _ => (b % 256 : Nat)

/-- R386: CVTI. -/
def execCvti (f : LaneFields) (s : State) : Res :=
  let t := f.ty.toNat
  let toInt := 0xA ≤ t
  s.laneOp f (if t = 1 then 2 else 1) (!toInt) fun i =>
    if toInt then
      let r := intRange t
      { bits := (BitVec.ofInt 32 (toIntSat (s.g.mode f) r.1 r.2 (s.g.cvtSource f f.a i f.sub.toNat).v)).toNat }
    else
      let r := s.g.convertTo (fmtOf t) (s.g.mode f) ⟨ofInt (s.g.cvtInt f f.a i f.sub.toNat) 0, 63⟩
      { bits := r.1, tag := r.2 }

/-- R387: PACK. -/
def execPack (f : LaneFields) (s : State) : Res :=
  let F := fmtOf f.ty.toNat
  s.laneOp f 1 true fun i =>
    let lo := s.g.convertTo F (s.g.mode f) (s.g.cvtSource f f.a i 0)
    let hi := s.g.convertTo F (s.g.mode f) (s.g.cvtSource f f.b i 0)
    { bits := lo.1 + hi.1 * 2 ^ 16, tag := min lo.2 hi.2 }

/-- R387: UNPK. -/
def execUnpk (f : LaneFields) (s : State) : Res :=
  let code := f.ty.toNat
  let F := fmtOf code
  s.laneOp f 1 true fun i =>
    let p := s.g.readPair f f.a i code
    let y := F.flushSource (fmtBits s.g.lfmt) (F.decode (if f.sub = 0 then p.1 else p.2))
    { bits := fp32.encode y, tag := tagSteps fp32 y ⟨y, false⟩ (s.g.sourceTag f.a i F.p) }

/-- R388: the sources of the block: lanes of CUR whose guard is true. -/
def Group.mxqSources (g : Group) (f : LaneFields) : List FVal :=
  lanes.map fun i => if lane (g.contributors f.guard) i then (g.cvtSource f f.a i 0).v else fzero false

/-- R388, R263: the tag of an element of format `t` quantised from `x`. -/
def mxqTag (t : Nat) (x : TVal) (r : Rounded) : Nat :=
  if t = 9 then
    if r.sat then 0 else if r.val.isZero && !x.v.isZero then 0 else min x.s 8
  else tagSteps (fmtOf t) x.v r (min x.s (fmtOf t).p)

/-- R388: MXQ in lane `i`, for a block with scale `scale` and elements `els`. -/
def Group.mxqLane (g : Group) (f : LaneFields) (scale : Nat) (els : List Rounded) (i : Nat) : LaneOut :=
  let t := f.ty.toNat
  let x := g.cvtSource f f.a i 0
  let zero : Rounded := ⟨fzero false, false⟩
  let r := if lane g.helpers i then (if scale = 0xFF then zero else quantElem t x.v scale) else els.getD i zero
  { bits := quantCode t r.val + scale * 2 ^ 32, tag := if scale = 0xFF then 0 else mxqTag t x r }

/-- R388: MXQ. -/
def execMxq (f : LaneFields) (s : State) : Res :=
  let q := quantBlock f.ty.toNat (s.g.mxqSources f)
  s.laneOp f 2 (f.ty != 9) (s.g.mxqLane f q.1 q.2)

end Sys2Proof.Machine
end

