-- ==== Sys2Proof/Machine/LaneCross.lean ====
section
/-! DEFINITION. Sys2Proof/Machine/LaneCross.lean: mask words, votes, exchange, reductions and scans (R396-R402). -/

namespace Sys2Proof.Machine

/-! ## Masks and votes -/

/-- R396: md, ma and mb. -/
def maskReg (f : LaneFields) (lo : Nat) : BitVec 3 := f.imm.extractLsb' lo 3

/-- R396: a mask word that gives md the value `v`. -/
def State.maskWord (s : State) (f : LaneFields) (v : Word32) : Res := s.laneDone (s.g.setM (maskReg f 0) v)

/-- R396: MAND. -/
def execMand (f : LaneFields) (s : State) : Res :=
  s.maskWord f (s.g.getM (maskReg f 4) &&& s.g.getM (maskReg f 8))

/-- R396: MOR. -/
def execMor (f : LaneFields) (s : State) : Res :=
  s.maskWord f (s.g.getM (maskReg f 4) ||| s.g.getM (maskReg f 8))

/-- R396: MNOT. -/
def execMnot (f : LaneFields) (s : State) : Res := s.maskWord f (~~~s.g.getM (maskReg f 4))

/-- R397: the contributing lanes whose operand is not zero. -/
def Group.ballot (g : Group) (f : LaneFields) : Word32 :=
  maskOf fun i => lane (g.contributors f.guard) i && g.readInt f f.a i 1 != 0

/-- R397: VOTE. -/
def execVote (f : LaneFields) (s : State) : Res :=
  if f.sub = 0 then if !s.fileOk f then s.illegal else s.maskWord f (s.g.ballot f)
  else
    let x := s.g.ballot f
    let r := if f.sub = 1 then x != 0 else x == s.g.contributors f.guard
    s.laneOp f 1 false fun _ => { bits := b2n r }

/-! ## Exchange -/

/-- R398: the source lane of lane `i`. -/
def shflLane (sub i n : Nat) : Nat :=
  match sub with
  | 0 => n
  | 1 => if n ≤ i then i - n else i
  | 2 => if i + n ≤ 31 then i + n else i
  | _ => Nat.xor i n

/-- R398, R399: every executing lane takes A of the lane that `j` names. -/
def State.exchange (s : State) (f : LaneFields) (j : Nat → Nat) : Res :=
  let n := if f.ty = 1 then 2 else 1
  s.laneOp f n false fun i => { bits := s.g.readInt f f.a (j i) n, tag := (s.g.moveTag f.a (j i)).toNat }

/-- R398: SHFL. -/
def execShfl (f : LaneFields) (s : State) : Res :=
  s.exchange f fun i => shflLane f.sub.toNat i (s.g.readInt f f.b i 1 % 32)

/-- R399: QSWP. -/
def execQswp (f : LaneFields) (s : State) : Res := s.exchange f fun i => Nat.xor i (f.sub.toNat + 1)

/-! ## Reductions and scans -/

/-- A lane's value in a reduction: its bits and its tag. -/
abbrev RedVal := Nat × Nat

/-- The operation of R402. -/
def redCode (f : LaneFields) : Nat := (f.sub.extractLsb' 0 3).toNat

/-- A of a lane as R402 reads it. -/
def Group.redSrc (g : Group) (f : LaneFields) (i : Nat) : RedVal :=
  let F := fmtOf f.ty.toNat
  if redCode f ≤ 2 then
    let bits := g.readFloat f f.a i f.ty.toNat
    let v := F.flushSource (fmtBits g.lfmt) (F.decode bits)
    (if v.isZero then F.encode v else bits, if redCode f = 0 then g.floatTag f.a i F.p else g.sourceTag f.a i F.p)
  else (g.intSrc f f.a i, 0)

/-- R402: the identity. -/
def redIdentity (f : LaneFields) : RedVal :=
  let F := fmtOf f.ty.toNat
  let w := intWidth f
  match redCode f with
  | 0 => (0, F.p)
  | 1 => (F.encode (.inf false), 0)
  | 2 => (F.encode (.inf true), 0)
  | 3 => (0, 0)
  | 4 => (2 ^ (w - 1) - 1, 0)
  | 5 => (2 ^ (w - 1), 0)
  | 6 => (2 ^ w - 1, 0)
  | _ => (0, 0)

/-- R378 on values in a reduction: the chosen one. -/
def redMin (F : Fmt) (max first : Bool) (x y : RedVal) : RedVal :=
  match minChoice max first (F.decode x.1) (F.decode y.1) with
  | none => (F.nan, 0)
  | some true => x
  | some false => y

/-- R402: the operation; the pick between equal values is a function of them (R2). -/
def Group.redOp (g : Group) (f : LaneFields) (x y : RedVal) : RedVal :=
  let F := fmtOf f.ty.toNat
  let w := intWidth f
  let lt := fun (a b : Nat) => (BitVec.ofNat w a).slt (BitVec.ofNat w b)
  match redCode f with
  | 0 => sumElem F (fmtBits g.lfmt) 0 ⟨F.decode x.1, x.2⟩ ⟨F.decode y.1, y.2⟩
  | 1 => redMin F false (Config.equalPick (16 + w) g.lfmt x.1 x.2 y.1 y.2) x y
  | 2 => redMin F true (Config.equalPick (17 + w) g.lfmt x.1 x.2 y.1 y.2) x y
  | 3 => ((x.1 + y.1) % 2 ^ w, 0)
  | 4 => (if lt y.1 x.1 then y.1 else x.1, 0)
  | 5 => (if lt x.1 y.1 then y.1 else x.1, 0)
  | 6 => (x.1 &&& y.1, 0)
  | _ => (x.1 ||| y.1, 0)

/-- R401: P[n] over these lanes, in order. -/
def Group.redPrefix (g : Group) (f : LaneFields) : List Nat → RedVal
  | [] => redIdentity f
  | j :: js => js.foldl (fun x i => g.redOp f x (g.redSrc f i)) (g.redSrc f j)

/-- Registers of a reduction's value. -/
def redRegs (f : LaneFields) : Nat := if f.ty = 1 then 2 else 1

/-- A word that writes a reduction's value; the fadd forms meet the significance trap. -/
def State.redWord (s : State) (f : LaneFields) (r : Nat → RedVal) : Res :=
  s.laneOp f (redRegs f) (redCode f == 0) fun i => { bits := (r i).1, tag := (r i).2 }

/-- R400: QRED. -/
def execQred (f : LaneFields) (s : State) : Res :=
  let g := s.g
  let op := g.redOp f
  let x := g.redSrc f
  s.redWord f fun i =>
    let q := i / 4 * 4
    op (op (x q) (x (q + 1))) (op (x (q + 2)) (x (q + 3)))

/-- R401: the contributing lanes, ascending. -/
def Group.redLanes (g : Group) (f : LaneFields) : List Nat := lanesOf (g.contributors f.guard)

/-- R401: GRED. -/
def execGred (f : LaneFields) (s : State) : Res :=
  s.redWord f fun _ => s.g.redPrefix f (s.g.redLanes f)

/-- R401: GSCAN. -/
def execGscan (f : LaneFields) (s : State) : Res :=
  let ex := f.sub.getLsbD 3
  s.redWord f fun i =>
    s.g.redPrefix f ((s.g.redLanes f).filter fun j => if ex then j < i else j ≤ i)

end Sys2Proof.Machine
end

