-- ==== Sys2Proof/Machine/LaneFlow.lean ====
section
/-! DEFINITION. Sys2Proof/Machine/LaneFlow.lean: the lane words that steer the current path, YIELD and NOP (R134-R136,
R391-R395).  Each executes once for the group, whatever its execution mask. -/

namespace Sys2Proof.Machine

/-- R391: t, in the lanes of CUR only. -/
def Group.condMask (g : Group) (f : LaneFields) : Word32 :=
  maskOf fun i =>
    lane (g.contributors f.guard) i && (if f.sub = 1 then g.readInt f f.a i 1 == 0 else g.readInt f f.a i 1 != 0)

/-- R392: the lane FMT after a change, unless it would hold a reserved rounding mode. -/
def fmtChange (fmt imm : Word32) : Option Word32 :=
  let mask := (imm.extractLsb' 16 12).setWidth 32
  let new := (fmt &&& ~~~mask) ||| (imm &&& mask)
  if 5 ≤ (new.extractLsb' 0 3).toNat then none else some new

/-- R135: clear lanes in OUTER and PEND of an entry. -/
def MaskEntry.clear (e : MaskEntry) (x : Word32) : MaskEntry :=
  { e with outer := e.outer &&& ~~~x, pend := e.pend &&& ~~~x }

/-- R135: push an entry on a stack of at most 32. -/
def State.pushMask (s : State) (e : MaskEntry) (g : Group) : Res :=
  if 32 ≤ s.g.stack.length then s.fault causeMaskOvf 0 0 else s.laneDone { g with stack := e :: s.g.stack }

/-- R135, R392: IF. -/
def execLaneIf (f : LaneFields) (s : State) : Res :=
  let g := s.g
  if !s.fileOk f then s.illegal
  else
    match fmtChange g.lfmt f.imm with
    | none => s.illegal
    | some new =>
      let t := g.condMask f
      s.pushMask { fmt := g.lfmt, kind := .ifThen, head := 0, pend := g.cur &&& ~~~t, outer := g.cur }
        { g with cur := g.cur &&& t, lfmt := new }

/-- R135, R392: ELSE. -/
def execLaneElse (f : LaneFields) (s : State) : Res :=
  let g := s.g
  match g.stack with
  | e :: st =>
    if e.kind = .ifThen then
      match fmtChange e.fmt f.imm with
      | none => s.illegal
      | some new => s.laneDone { g with cur := e.pend, lfmt := new, stack := { e with kind := .ifElse, pend := 0 } :: st }
    else s.fault causeMaskUnbal 0 0
  | [] => s.fault causeMaskUnbal 0 0

/-- R135: ENDIF. -/
def execEndif (_f : LaneFields) (s : State) : Res :=
  let g := s.g
  match g.stack with
  | e :: st =>
    if e.kind = .loop then s.fault causeMaskUnbal 0 0
    else s.laneDone { g with cur := e.outer, lfmt := e.fmt, stack := st }
  | [] => s.fault causeMaskUnbal 0 0

/-- R135, R393: LOOP. -/
def execLaneLoop (_f : LaneFields) (s : State) : Res :=
  let g := s.g
  s.pushMask { fmt := g.lfmt, kind := .loop, head := BitVec.ofNat 17 (g.lpc + 1), pend := 0, outer := g.cur } g

/-- Split a stack at its innermost LOOP: the entries above it, the entry, and the entries below. -/
def splitLoop : List MaskEntry → Option (List MaskEntry × MaskEntry × List MaskEntry)
  | [] => none
  | e :: st =>
    if e.kind = .loop then some ([], e, st)
    else (splitLoop st).map fun (above, l, below) => (e :: above, l, below)

/-- R135, R236: BRK and CONT take the lanes of t out of the iteration; `held` keeps them at the loop. -/
def State.leaveLoop (s : State) (f : LaneFields) (held : Bool) : Res :=
  let g := s.g
  if !s.fileOk f then s.illegal
  else
    match splitLoop g.stack with
    | none => s.fault causeMaskUnbal 0 0
    | some (above, l, below) =>
      let x := g.condMask f
      if g.tx.depth != 0 && x &&& g.tx.active != 0 && decide (below.length < g.tx.base) then s.fault causeMaskUnbal 0 0
      else
        let l := if held then { l with pend := l.pend ||| x } else l
        s.laneDone { g with cur := g.cur &&& ~~~x, stack := above.map (·.clear x) ++ l :: below }

/-- R135: BRK. -/
def execLaneBrk (f : LaneFields) (s : State) : Res := s.leaveLoop f false

/-- R135: CONT. -/
def execCont (f : LaneFields) (s : State) : Res := s.leaveLoop f true

/-- R135, R393: ENDL. -/
def execEndl (_f : LaneFields) (s : State) : Res :=
  let g := s.g
  match g.stack with
  | e :: st =>
    if e.kind = .loop then
      let cur := g.cur ||| e.pend
      if cur ≠ 0 then
        .next (s.setG { g with cur, stack := { e with pend := 0 } :: st, lpc := e.head.toNat, lwait := none })
      else s.laneDone { g with cur := e.outer &&& g.live, lfmt := e.fmt, stack := st }
    else s.fault causeMaskUnbal 0 0
  | [] => s.fault causeMaskUnbal 0 0

/-- R239, R248: the transaction of lanes that leave LIVE: an open one aborts and never rejoins, a serial one loses its
lane and keeps the token to its XEND. -/
def Group.exitTx (g : Group) (x : Word32) : Group :=
  let h := if g.tx.serial then { g with tx := { g.tx with active := g.tx.active &&& ~~~x } }
    else g.abortLanes (g.tx.active &&& x) 6 0
  { h with tx := { h.tx with rejoin := h.tx.rejoin &&& ~~~x } }

/-- R144: an EXIT in the handler block also clears its lanes from the trap slot. -/
def TrapSlot.clear (t : TrapSlot) (x : Word32) : TrapSlot :=
  { t with cur := t.cur &&& ~~~x, stack := t.stack.map (·.clear x) }

/-- R124: with LIVE at 0 the block ends at once; a transaction that it had open can never reach its XEND. -/
def State.noLanes (s : State) (g : Group) : Res :=
  .next ((s.releaseToken g.part s.actor).setG
    { g.endBlock with lpc := g.lpc + 1, tx := { g.tx with depth := 0, serial := false } })

/-- R135, R393: EXIT. -/
def execExit (_f : LaneFields) (s : State) : Res :=
  let x := s.g.cur
  let g := s.g.exitTx x
  let g := { g with
    live := g.live &&& ~~~x, cur := 0, stack := g.stack.map (·.clear x)
    trapSlot := if g.inHandler then g.trapSlot.map (·.clear x) else g.trapSlot }
  if g.live == 0 then s.noLanes g else s.laneDone g

/-- R123, R144, R236: LEND. -/
def execLend (_f : LaneFields) (s : State) : Res :=
  let g := s.g
  if !g.stack.isEmpty || g.tx.depth != 0 then s.fault causeMaskUnbal 0 0
  else s.laneDone g.endBlock

/-- R394: the entry that YIELD appends. -/
def Group.yieldEntry (g : Group) (f : LaneFields) : Word :=
  let x := g.contributors f.guard
  if f.sub = 1 then
    (maskOf fun i => lane x i && g.readInt f f.a i 1 != 0).setWidth 64 ||| (g.cur.setWidth 64 <<< 32)
  else
    match lowestLane x with
    | some i => BitVec.ofNat 64 (g.readInt f f.a i (if f.ty = 1 then 2 else 1))
    | none => 0

/-- R125, R394: YIELD. -/
def execYield (f : LaneFields) (s : State) : Res :=
  if !s.fileOk f then s.illegal
  else if 16 ≤ s.g.cq.length then s.fault causeCqOvf 0 0
  else s.laneDone { s.g with cq := s.g.cq ++ [s.g.yieldEntry f] }

/-- R395: the lane NOP. -/
def execLaneNop (_f : LaneFields) (s : State) : Res := s.laneDone s.g

end Sys2Proof.Machine
end

