-- ==== Sys2Proof/Machine/Transactions.lean ====
section
/-! DEFINITION. Sys2Proof/Machine/Transactions.lean: XBEGIN, XBEGIN.S, XEND, XABORT, XSTAT and the events TX_WATCHDOG and
SERIAL_TOKEN_GRANT (R229-R248, R411-R414). -/

namespace Sys2Proof.Machine

/-- TXTGT of an XBEGIN. -/
def txTarget (f : LaneFields) : BitVec 17 := f.imm.extractLsb' 0 17

/-- R230: the outermost XBEGIN opens a transaction in the lanes of CUR. -/
def Group.beginTx (g : Group) (f : LaneFields) : Group :=
  { g with tx := { g.tx with
      depth := 1, base := g.stack.length, tgt := txTarget f, watch := 0, rejoin := 0, serial := false, waited := false
      active := g.cur
      xc := (lanesOf g.cur).foldl (fun m i => SMap.del m i) g.tx.xc, reads := [], writes := [] } }

/-- R230, R231, R411: XBEGIN. -/
def execXbegin (f : LaneFields) (s : State) : Res :=
  let g := s.g
  if s.t.speculative then s.fault causeRegionEffect 0 0
  else if g.tx.depth = 0 then s.laneDone (g.beginTx f)
  else if 7 ≤ g.tx.depth then s.fault causeTxNest 0 0
  else s.laneDone { g with tx := { g.tx with depth := g.tx.depth + 1 } }

/-- R244 step 1: the lowest lane stays, and every other lane of CUR is set aside. -/
def Group.setAside (g : Group) (f : LaneFields) (low : Nat) : Group :=
  let others := g.cur &&& ~~~laneBit low
  { g with
    cur := laneBit low
    tx := { g.tx with
      base := g.stack.length, tgt := txTarget f, active := 0, rejoin := g.tx.rejoin ||| others
      xc := (lanesOf others).foldl (fun m i => SMap.set 0 m i (txCauseWord 1 8 0)) g.tx.xc } }

/-- R231, R244, R411: XBEGIN.S asks for the serial token and waits for it. -/
def execXbeginS (f : LaneFields) (s : State) : Res :=
  let g := s.g
  if g.tx.depth ≠ 0 then s.fault causeTxNest 0 0
  else if s.t.speculative then s.fault causeRegionEffect 0 0
  else
    match lowestLane g.cur with
    | none => s.laneDone (g.beginTx f)
    | some low =>
      if s.p.serialQ.contains s.actor then s.laneWait .txCommit
      else
        let s := s.setG (g.setAside f low)
        (s.setP { s.p with serialQ := s.p.serialQ ++ [s.actor] }).laneWait .txCommit

/-- R244 step 3: a commit of the partition has begun locking and has not unlocked. -/
def State.commitLocked (s : State) (part : Nat) : Bool :=
  s.mid.any fun m => (s.group m.group).part == part && match m.body with
    | .commit _ _ locked => locked
    | .region => true
    | _ => false

/-- SERIAL_TOKEN_GRANT (R244): the oldest request gets the free token once no commit holds its locks, and its XBEGIN.S
completes. -/
def execSerialTokenGrant (part : Nat) (s : State) : Res :=
  let p := s.part part
  match p.serialHolder, p.serialQ with
  | none, k :: q =>
    let s := { s with actor := k }
    if !s.mayIssue false || s.commitLocked part then .fault .notEnabled
    else
      let g := s.g
      let tx := { g.tx with
        depth := 1, serial := true, active := g.cur, watch := 0, waited := false
        xc := (lanesOf g.cur).foldl (fun m i => SMap.del m i) g.tx.xc, reads := [], writes := [] }
      .next ((((s.setPart part { p with serialHolder := some k, serialQ := q }).setG
        { g.stepped false with tx, lpc := g.lpc + 1, lwait := none, laneIssued := g.laneIssued + 1 }).countSkid
          (s.skidDue false)).takeSlot k false (g.stop != .debug))
  | _, _ => .fault .notEnabled

/-- TX_WATCHDOG (R239): every lane with an open transaction aborts with TIMEOUT. -/
def execTxWatchdog (group : Nat) (s : State) : Res :=
  let s := { s with actor := group }
  if s.g.timedOut then .next (s.setG (s.g.abortLanes s.g.tx.active 5 0)) else .fault .notEnabled

/-! ## Commit (R240-R243) -/

/-- R240: the index of the first logged value that memory no longer holds. -/
def State.mismatch (s : State) (log : List LogEntry) : Option Nat :=
  log.findIdx? fun e => s.bytesAt e.granule 8 != e.bytes

/-- R240: publish a lane's writes. -/
def State.publishLog (s : State) (log : List LogEntry) : State :=
  foldState log s fun e s =>
    foldState (List.range 8) (s.keepPast e.granule 8) fun k s =>
      if e.mask.getLsbD k then s.commitBytes (e.granule + k) [e.bytes.getD k 0] else s

/-- R240, R241, R243: a granule of lane `i` is locked by another commit. -/
def State.meetsLock (s : State) (i : Nat) : Bool := (s.g.commitGranules i).any fun a => s.lockHit a 8

/-- R237, R240: what validation of lane `i` says: nothing where it commits.  DETAIL of SERIAL_WAIT is the index that R240
gives it, where R237's table has 0 (log 94). -/
def State.validate (s : State) (i : Nat) (waited : Bool) : Option Word32 :=
  (s.mismatch (s.g.readLog i)).map fun j => txCauseWord 1 (if waited then 8 else 1) j

/-- Abort(i, c, d) of R240. -/
def State.failLane (s : State) (i : Nat) (c : Word32) : State :=
  s.setG { s.g with tx := { s.g.tx with xc := SMap.set 0 s.g.tx.xc i c, waited := false } }

/-- R240: lane `i` is committed. -/
def State.publishLane (s : State) (i : Nat) : State :=
  let s := s.publishLog (s.g.writeLog i)
  s.setG { s.g with tx := { s.g.tx with waited := false } }

/-- R240: the outermost XEND from where it stands: the lanes still to be committed, M so far, and whether the first of
them has its granules locked.  Each lane locks, and then validates against the writes of those before it and unlocks; the
first argument bounds these points.  A lane that finds the serial token held by another group waits. -/
def State.commitLanes : Nat → State → List Nat → Word32 → Bool → State × List Nat × Word32 × Bool
  | 0, s, todo, m, locked => (s, todo, m, locked)
  | _, s, [], m, _ => (s, [], m, false)
  | n + 1, s, i :: is, m, false =>
    if s.p.serialHolder.any (· != s.actor) then
      (s.setG { s.g with tx := { s.g.tx with waited := true } }, i :: is, m, false)
    else if s.meetsLock i then State.commitLanes n (s.failLane i (txCauseWord 1 1 0xFFFF)) is m false
    else State.commitLanes n s (i :: is) m true
  | n + 1, s, i :: is, m, true =>
    match s.validate i s.g.tx.waited with
    | some c => State.commitLanes n (s.failLane i c) is m false
    | none => State.commitLanes n (s.publishLane i) is (m ||| laneBit i) false

/-- Where the acting group's XEND stands. -/
def State.midCommit (s : State) : List Nat × Word32 × Bool :=
  match s.midOf false with
  | some { body := .commit todo m locked, .. } => (todo, m, locked)
  | _ => (lanesOf s.g.tx.active, 0, false)

/-- R240: the XEND waits with lanes still to be committed. -/
def State.commitWait (s : State) (todo : List Nat) (m : Word32) (locked : Bool) : Res :=
  (s.setMid false (.commit todo m locked)).laneWait .txCommit

/-- R240, R245: the outermost XEND closes: lanes rejoin, md takes the committed lanes. -/
def Group.closeTx (g : Group) (f : LaneFields) (m lost : Word32) : Group :=
  { g.setM (f.imm.extractLsb' 0 3) m with
    cur := g.cur ||| g.tx.rejoin
    tx := { g.tx with
      depth := 0, active := 0, rejoin := 0, serial := false, waited := false, reads := [], writes := []
      cause := (lost ||| g.tx.rejoin).setWidth 64 <<< 32 ||| m.setWidth 64 } }

/-- R288: an outermost XEND of the acting group has committed `n` lanes. -/
def State.traceXend (s : State) (n : Nat) : State :=
  s.traceEvent s.g.part (dieOf s.t.core) 0x14 (s.gid s.g + n * 2 ^ 14) none

/-- R231, R236, R240, R245, R412: XEND. -/
def execXend (f : LaneFields) (s : State) : Res :=
  let g := s.g
  if g.tx.depth = 0 then s.fault causeTxNone 0 0
  else if 2 ≤ g.tx.depth then
    s.laneDone ({ g with tx := { g.tx with depth := g.tx.depth - 1 } }.setM (f.imm.extractLsb' 0 3) g.tx.active)
  else if g.stack.length ≠ g.tx.base || g.lpc ≠ g.tx.tgt.toNat then s.fault causeMaskUnbal 0 0
  else if g.tx.serial then
    ((s.releaseToken g.part s.actor).traceXend (popcount g.tx.active)).laneDone (g.closeTx f g.tx.active 0)
  else
    let (todo, m, locked) := s.midCommit
    let (s, todo, m, locked) := State.commitLanes (s.limit.getD 65) (s.clearMid false) todo m locked
    if todo.isEmpty then (s.traceXend (popcount m)).laneDone (s.g.closeTx f m (g.tx.active &&& ~~~m))
    else s.commitWait todo m locked

/-- R239, R413: XABORT. -/
def execXabort (f : LaneFields) (s : State) : Res :=
  let g := s.g
  if g.tx.depth = 0 then s.fault causeTxNone 0 0
  else if g.tx.serial then s.laneDone g
  else s.laneDone (g.abortLanes (g.active f.guard &&& g.tx.active) 6 (f.imm.toNat % 256))

/-- R237, R414: XSTAT. -/
def execXstat (f : LaneFields) (s : State) : Res :=
  s.laneOp f 1 false fun i => { bits := (s.g.tx.xc.get 0 i).toNat }

end Sys2Proof.Machine
end

