-- ==== Sys2Proof/Machine/Dispatch.lean ====
section
/-! DEFINITION. Sys2Proof/Machine/Dispatch.lean: one arm for each row of the opcode table, each a call of its meaning. -/

namespace Sys2Proof.Machine

/-- What an instruction or a machine event does in a state. -/
def exec (i : Instr) (s : State) : Host.Outcome State Fault Refusal :=
  match i with
  | .alwaysOnPower => Sys2Proof.Machine.execAlwaysOnPower s
  | .deviceReset images modules tiers => Sys2Proof.Machine.execDeviceReset images modules tiers s
  | .bistComplete core rows => Sys2Proof.Machine.execBistComplete core rows s
  | .flitCrcFail => Sys2Proof.Machine.execFlitCrcFail s
  | .moduleFail link => Sys2Proof.Machine.execModuleFail link s
  | .hostLinkFail => Sys2Proof.Machine.execHostLinkFail s
  | .networkReset => Sys2Proof.Machine.execNetworkReset s
  | .eccUe group addr array bank row => Sys2Proof.Machine.execEccUe group addr array bank row s
  | .queueEcc part cls entry => Sys2Proof.Machine.execQueueEcc part cls entry s
  | .registerWrite fn off len value => Sys2Proof.Machine.execRegisterWrite fn off len value s
  | .rcFieldRead fn off len => Sys2Proof.Machine.execRcFieldRead fn off len s
  | .nsStep fn delta => Sys2Proof.Machine.execNsStep fn delta s
  | .createCmd fn part => Sys2Proof.Machine.execCreateCmd fn part s
  | .startCmd fn part => Sys2Proof.Machine.execStartCmd fn part s
  | .haltCmd fn part => Sys2Proof.Machine.execHaltCmd fn part s
  | .destroyCmd fn part => Sys2Proof.Machine.execDestroyCmd fn part s
  | .windowWrite fn off bytes => Sys2Proof.Machine.execWindowWrite fn off bytes s
  | .windowRead fn off len => Sys2Proof.Machine.execWindowRead fn off len s
  | .apertureWrite fn off n => Sys2Proof.Machine.execApertureWrite fn off n s
  | .apertureRead fn off => Sys2Proof.Machine.execApertureRead fn off s
  | .apertureBadAccess fn off len write => Sys2Proof.Machine.execApertureBadAccess fn off len write s
  | .wakeWrite fn off n => Sys2Proof.Machine.execWakeWrite fn off n s
  | .counterDecrement part imm => Sys2Proof.Machine.execCounterDecrement part imm s
  | .dispatchUnit part die => Sys2Proof.Machine.execDispatchUnit part die s
  | .netEnqueue part cls => Sys2Proof.Machine.execNetEnqueue part cls s
  | .rangeSplit part core => Sys2Proof.Machine.execRangeSplit part core s
  | .residenceMark team => Sys2Proof.Machine.execResidenceMark team s
  | .preempt part die cls => Sys2Proof.Machine.execPreempt part die cls s
  | .saveComplete team => Sys2Proof.Machine.execSaveComplete team s
  | .restore part die => Sys2Proof.Machine.execRestore part die s
  | .laneBlockStart group => Sys2Proof.Machine.execLaneBlockStart group s
  | .loadComplete group counter => Sys2Proof.Machine.execLoadComplete group counter s
  | .storeAck group => Sys2Proof.Machine.execStoreAck group s
  | .walkComplete group control => Sys2Proof.Machine.execWalkComplete group control s
  | .logicalTick core => Sys2Proof.Machine.execLogicalTick core s
  | .migrationStart part va => Sys2Proof.Machine.execMigrationStart part va s
  | .migrationComplete imm => Sys2Proof.Machine.execMigrationComplete imm s
  | .engineComplete core matrix id => Sys2Proof.Machine.execEngineComplete core matrix id s
  | .groupRetire group => Sys2Proof.Machine.execGroupRetire group s
  | .teamRetire team => Sys2Proof.Machine.execTeamRetire team s
  | .recordComplete part id => Sys2Proof.Machine.execRecordComplete part id s
  | .batchClose part slot => Sys2Proof.Machine.execBatchClose part slot s
  | .netOperation part => Sys2Proof.Machine.execNetOperation part s
  | .netAck part id pkt ok data => Sys2Proof.Machine.execNetAck part id pkt ok data s
  | .netAckTimeout part id => Sys2Proof.Machine.execNetAckTimeout part id s
  | .netIncoming job epid peer raddr req => Sys2Proof.Machine.execNetIncoming job epid peer raddr req s
  | .netRemoteDecrement job epid peer word dec => Sys2Proof.Machine.execNetRemoteDecrement job epid peer word dec s
  | .cqConsRead group ok => Sys2Proof.Machine.execCqConsRead group ok s
  | .cqReread part ok => Sys2Proof.Machine.execCqReread part ok s
  | .waitmWake group => Sys2Proof.Machine.execWaitmWake group s
  | .waitmRecheck group => Sys2Proof.Machine.execWaitmRecheck group s
  | .txWatchdog group => Sys2Proof.Machine.execTxWatchdog group s
  | .serialTokenGrant part => Sys2Proof.Machine.execSerialTokenGrant part s
  | .regionTrip team => Sys2Proof.Machine.execRegionTrip team s
  | .regionRestart team => Sys2Proof.Machine.execRegionRestart team s
  | .shadowFull team => Sys2Proof.Machine.execShadowFull team s
  | .regionCommit team => Sys2Proof.Machine.execRegionCommit team s
  | .engineStop unit => Sys2Proof.Machine.execEngineStop unit s
  | .partitionHalted part => Sys2Proof.Machine.execPartitionHalted part s
  | .dumpWrite part => Sys2Proof.Machine.execDumpWrite part s
  | .dbgStop fn part stream scope gid => Sys2Proof.Machine.execDbgStop fn part stream scope gid s
  | .dbgResume fn part stream scope gid => Sys2Proof.Machine.execDbgResume fn part stream scope gid s
  | .dbgStep fn part stream scope gid => Sys2Proof.Machine.execDbgStep fn part stream scope gid s
  | .dbgStepEnd group => Sys2Proof.Machine.execDbgStepEnd group s
  | .dbgKill fn part stream scope gid => Sys2Proof.Machine.execDbgKill fn part stream scope gid s
  | .dbgKillComplete team => Sys2Proof.Machine.execDbgKillComplete team s
  | .dbgSnap fn part stream scope gid => Sys2Proof.Machine.execDbgSnap fn part stream scope gid s
  | .snapshotLatch part => Sys2Proof.Machine.execSnapshotLatch part s
  | .traceSample group control => Sys2Proof.Machine.execTraceSample group control s
  | .portGate core port => Sys2Proof.Machine.execPortGate core port s
  | .boostBoundary die slots => Sys2Proof.Machine.execBoostBoundary die slots s
  | .permitAccrue cluster => Sys2Proof.Machine.execPermitAccrue cluster s
  | .getVersion => Sys2Proof.Machine.execGetVersion s
  | .getCapabilities => Sys2Proof.Machine.execGetCapabilities s
  | .negotiateAlgorithms => Sys2Proof.Machine.execNegotiateAlgorithms s
  | .getDigests => Sys2Proof.Machine.execGetDigests s
  | .getCertificate offset len => Sys2Proof.Machine.execGetCertificate offset len s
  | .challenge nonce => Sys2Proof.Machine.execChallenge nonce s
  | .getMeasurements index sign nonce => Sys2Proof.Machine.execGetMeasurements index sign nonce s
  | .kaluAdd d a b => Sys2Proof.Machine.execKaluAdd d a b s
  | .kaluSub d a b => Sys2Proof.Machine.execKaluSub d a b s
  | .kaluMul d a b => Sys2Proof.Machine.execKaluMul d a b s
  | .kaluMulh d a b => Sys2Proof.Machine.execKaluMulh d a b s
  | .kaluMulhu d a b => Sys2Proof.Machine.execKaluMulhu d a b s
  | .kaluAnd d a b => Sys2Proof.Machine.execKaluAnd d a b s
  | .kaluOr d a b => Sys2Proof.Machine.execKaluOr d a b s
  | .kaluXor d a b => Sys2Proof.Machine.execKaluXor d a b s
  | .kaluAndn d a b => Sys2Proof.Machine.execKaluAndn d a b s
  | .kaluShl d a b => Sys2Proof.Machine.execKaluShl d a b s
  | .kaluShr d a b => Sys2Proof.Machine.execKaluShr d a b s
  | .kaluSra d a b => Sys2Proof.Machine.execKaluSra d a b s
  | .kaluMin d a b => Sys2Proof.Machine.execKaluMin d a b s
  | .kaluMax d a b => Sys2Proof.Machine.execKaluMax d a b s
  | .kaluMinu d a b => Sys2Proof.Machine.execKaluMinu d a b s
  | .kaluMaxu d a b => Sys2Proof.Machine.execKaluMaxu d a b s
  | .kaluClz d a => Sys2Proof.Machine.execKaluClz d a s
  | .kaluPopc d a => Sys2Proof.Machine.execKaluPopc d a s
  | .addi d a imm => Sys2Proof.Machine.execAddi d a imm s
  | .andi d a imm => Sys2Proof.Machine.execAndi d a imm s
  | .ori d a imm => Sys2Proof.Machine.execOri d a imm s
  | .xori d a imm => Sys2Proof.Machine.execXori d a imm s
  | .shli d a n => Sys2Proof.Machine.execShli d a n s
  | .shri d a n => Sys2Proof.Machine.execShri d a n s
  | .srai d a n => Sys2Proof.Machine.execSrai d a n s
  | .li d imm => Sys2Proof.Machine.execLi d imm s
  | .lis d imm => Sys2Proof.Machine.execLis d imm s
  | .cmp c p a b => Sys2Proof.Machine.execCmp c p a b s
  | .cmpi c p a imm => Sys2Proof.Machine.execCmpi c p a imm s
  | .branch o => Sys2Proof.Machine.execBranch o s
  | .branchT p o => Sys2Proof.Machine.execBranchT p o s
  | .branchF p o => Sys2Proof.Machine.execBranchF p o s
  | .call o => Sys2Proof.Machine.execCall o s
  | .callT p o => Sys2Proof.Machine.execCallT p o s
  | .callF p o => Sys2Proof.Machine.execCallF p o s
  | .jr a => Sys2Proof.Machine.execJr a s
  | .jrL a => Sys2Proof.Machine.execJrL a s
  | .loop d o => Sys2Proof.Machine.execLoop d o s
  | .pand d a b => Sys2Proof.Machine.execPand d a b s
  | .por d a b => Sys2Proof.Machine.execPor d a b s
  | .pnot d a => Sys2Proof.Machine.execPnot d a s
  | .sel d a b p => Sys2Proof.Machine.execSel d a b p s
  | .ldk d a z x o => Sys2Proof.Machine.execLdk d a z x o s
  | .stk d a z o => Sys2Proof.Machine.execStk d a z o s
  | .amok d a z sc p q e => Sys2Proof.Machine.execAmok d a z sc p q e s
  | .cask d a z sc n q e => Sys2Proof.Machine.execCask d a z sc n q e s
  | .waitm d a z o => Sys2Proof.Machine.execWaitm d a z o s
  | .lrun a n o => Sys2Proof.Machine.execLrun a n o s
  | .cpop d => Sys2Proof.Machine.execCpop d s
  | .lsync => Sys2Proof.Machine.execLsync s
  | .setfmt a => Sys2Proof.Machine.execSetfmt a s
  | .getfmt d => Sys2Proof.Machine.execGetfmt d s
  | .sread d r => Sys2Proof.Machine.execSread d r s
  | .swrite a r => Sys2Proof.Machine.execSwrite a r s
  | .cwait a c => Sys2Proof.Machine.execCwait a c s
  | .binit a b => Sys2Proof.Machine.execBinit a b s
  | .bexpect a b => Sys2Proof.Machine.execBexpect a b s
  | .barrive b => Sys2Proof.Machine.execBarrive b s
  | .bwait a b p => Sys2Proof.Machine.execBwait a b p s
  | .btest a b p => Sys2Proof.Machine.execBtest a b p s
  | .binv b => Sys2Proof.Machine.execBinv b s
  | .tcopy a b q e sc n => Sys2Proof.Machine.execTcopy a b q e sc n s
  | .tcopyC a k b q e sc n => Sys2Proof.Machine.execTcopyC a k b q e sc n s
  | .rqt a b q e sc n => Sys2Proof.Machine.execRqt a b q e sc n s
  | .mma a b q e sc n z => Sys2Proof.Machine.execMma a b q e sc n z s
  | .tzero z => Sys2Proof.Machine.execTzero z s
  | .tload a b q sc n z => Sys2Proof.Machine.execTload a b q sc n z s
  | .tstore a b e sc n z => Sys2Proof.Machine.execTstore a b e sc n z s
  | .tstat d c z => Sys2Proof.Machine.execTstat d c z s
  | .tgath a b q e sc n => Sys2Proof.Machine.execTgath a b q e sc n s
  | .pbegin a => Sys2Proof.Machine.execPbegin a s
  | .pend => Sys2Proof.Machine.execPend s
  | .pendA => Sys2Proof.Machine.execPendA s
  | .pabort => Sys2Proof.Machine.execPabort s
  | .pquery d b f => Sys2Proof.Machine.execPquery d b f s
  | .tspawn a b c t => Sys2Proof.Machine.execTspawn a b c t s
  | .tdec a b => Sys2Proof.Machine.execTdec a b s
  | .rclaim a => Sys2Proof.Machine.execRclaim a s
  | .tfin c => Sys2Proof.Machine.execTfin c s
  | .assert a n p => Sys2Proof.Machine.execAssert a n p s
  | .scall d a c => Sys2Proof.Machine.execScall d a c s
  | .brk c => Sys2Proof.Machine.execBrk c s
  | .tret => Sys2Proof.Machine.execTret s
  | .nop => Sys2Proof.Machine.execNop s
  | .ctlEnd => Sys2Proof.Machine.execCtlEnd s
  | .iadd f => Sys2Proof.Machine.execIadd f s
  | .isub f => Sys2Proof.Machine.execIsub f s
  | .imul f => Sys2Proof.Machine.execImul f s
  | .imulh f => Sys2Proof.Machine.execImulh f s
  | .imad f => Sys2Proof.Machine.execImad f s
  | .imin f => Sys2Proof.Machine.execImin f s
  | .imax f => Sys2Proof.Machine.execImax f s
  | .iabs f => Sys2Proof.Machine.execIabs f s
  | .laneAnd f => Sys2Proof.Machine.execLaneAnd f s
  | .laneOr f => Sys2Proof.Machine.execLaneOr f s
  | .laneXor f => Sys2Proof.Machine.execLaneXor f s
  | .laneNot f => Sys2Proof.Machine.execLaneNot f s
  | .laneShl f => Sys2Proof.Machine.execLaneShl f s
  | .laneShr f => Sys2Proof.Machine.execLaneShr f s
  | .laneSra f => Sys2Proof.Machine.execLaneSra f s
  | .bfe f => Sys2Proof.Machine.execBfe f s
  | .bfi f => Sys2Proof.Machine.execBfi f s
  | .laneClz f => Sys2Proof.Machine.execLaneClz f s
  | .lanePopc f => Sys2Proof.Machine.execLanePopc f s
  | .brev f => Sys2Proof.Machine.execBrev f s
  | .iset f => Sys2Proof.Machine.execIset f s
  | .laneSel f => Sys2Proof.Machine.execLaneSel f s
  | .mov f => Sys2Proof.Machine.execMov f s
  | .movi f => Sys2Proof.Machine.execMovi f s
  | .fadd f => Sys2Proof.Machine.execFadd f s
  | .fsub f => Sys2Proof.Machine.execFsub f s
  | .fmul f => Sys2Proof.Machine.execFmul f s
  | .ffma f => Sys2Proof.Machine.execFfma f s
  | .fmin f => Sys2Proof.Machine.execFmin f s
  | .fmax f => Sys2Proof.Machine.execFmax f s
  | .frcp f => Sys2Proof.Machine.execFrcp f s
  | .frsq f => Sys2Proof.Machine.execFrsq f s
  | .fsqrt f => Sys2Proof.Machine.execFsqrt f s
  | .fexp2 f => Sys2Proof.Machine.execFexp2 f s
  | .flog2 f => Sys2Proof.Machine.execFlog2 f s
  | .ftanh f => Sys2Proof.Machine.execFtanh f s
  | .fsin f => Sys2Proof.Machine.execFsin f s
  | .fcos f => Sys2Proof.Machine.execFcos f s
  | .fset f => Sys2Proof.Machine.execFset f s
  | .fclass f => Sys2Proof.Machine.execFclass f s
  | .frnd f => Sys2Proof.Machine.execFrnd f s
  | .cvt f => Sys2Proof.Machine.execCvt f s
  | .cvti f => Sys2Proof.Machine.execCvti f s
  | .pack f => Sys2Proof.Machine.execPack f s
  | .unpk f => Sys2Proof.Machine.execUnpk f s
  | .mxq f => Sys2Proof.Machine.execMxq f s
  | .tagq f => Sys2Proof.Machine.execTagq f s
  | .tagg f => Sys2Proof.Machine.execTagg f s
  | .tags f => Sys2Proof.Machine.execTags f s
  | .tagm f => Sys2Proof.Machine.execTagm f s
  | .laneIf f => Sys2Proof.Machine.execLaneIf f s
  | .laneElse f => Sys2Proof.Machine.execLaneElse f s
  | .endif f => Sys2Proof.Machine.execEndif f s
  | .laneLoop f => Sys2Proof.Machine.execLaneLoop f s
  | .laneBrk f => Sys2Proof.Machine.execLaneBrk f s
  | .cont f => Sys2Proof.Machine.execCont f s
  | .endl f => Sys2Proof.Machine.execEndl f s
  | .exit f => Sys2Proof.Machine.execExit f s
  | .lend f => Sys2Proof.Machine.execLend f s
  | .yield f => Sys2Proof.Machine.execYield f s
  | .laneNop f => Sys2Proof.Machine.execLaneNop f s
  | .mand f => Sys2Proof.Machine.execMand f s
  | .mor f => Sys2Proof.Machine.execMor f s
  | .mnot f => Sys2Proof.Machine.execMnot f s
  | .vote f => Sys2Proof.Machine.execVote f s
  | .shfl f => Sys2Proof.Machine.execShfl f s
  | .qswp f => Sys2Proof.Machine.execQswp f s
  | .qred f => Sys2Proof.Machine.execQred f s
  | .gred f => Sys2Proof.Machine.execGred f s
  | .gscan f => Sys2Proof.Machine.execGscan f s
  | .ld f => Sys2Proof.Machine.execLd f s
  | .st f => Sys2Proof.Machine.execSt f s
  | .ldt f => Sys2Proof.Machine.execLdt f s
  | .stt f => Sys2Proof.Machine.execStt f s
  | .atom f => Sys2Proof.Machine.execAtom f s
  | .cas f => Sys2Proof.Machine.execCas f s
  | .pref f => Sys2Proof.Machine.execPref f s
  | .xbegin f => Sys2Proof.Machine.execXbegin f s
  | .xbeginS f => Sys2Proof.Machine.execXbeginS f s
  | .xend f => Sys2Proof.Machine.execXend f s
  | .xabort f => Sys2Proof.Machine.execXabort f s
  | .xstat f => Sys2Proof.Machine.execXstat f s
  | .tld f => Sys2Proof.Machine.execTld f s
  | .tst f => Sys2Proof.Machine.execTst f s
  | .hostLinkRetrain => Sys2Proof.Machine.execHostLinkRetrain s
  | .hostSnoop line keep => Sys2Proof.Machine.execHostSnoop line keep s

end Sys2Proof.Machine
end

