-- ==== Sys2Proof/Machine/Elapse.lean ====
section
/-! DEFINITION. Sys2Proof/Machine/Elapse.lean: what passes with time in the groups: the stall counters (R111-R113) and the
watchdog (R239). -/

namespace Sys2Proof.Machine

/-- The number of a stall reason (R112). -/
def Wait.number : Wait → Nat
  | .throttle => 0
  | .parked => 1
  | .regionCommit => 2
  | .txCommit => 3
  | .barWait => 4
  | .cwaitGl => 5
  | .cwaitSp => 6
  | .cwaitSt => 7
  | .cqWait => 8
  | .engineFull => 9
  | .translate => 10
  | .maskStk => 11
  | .fetch => 12
  | .dep => 13
  | .lqEmpty => 14
  | .portBusy => 15

/-- A reason of one clock, which a turn leaves behind; every other one is a condition that may end. -/
def Wait.momentary : Wait → Bool
  | .maskStk | .fetch | .dep | .portBusy => true
  | _ => false

/-- What a stream of a group waits for. -/
def Group.waitOf (g : Group) (control : Bool) : Option Wait := if control then g.cwait else g.lwait

/-- R112: what a stream's next instruction waits for as the machine stands now, and nothing where it could issue. -/
def State.waitNow (s : State) (k : Nat) (control : Bool) : Option Wait :=
  let g := s.group k
  let w := g.waitOf control
  if g.walks control then w
  else
    let s := { s with actor := k }
    match if control then s.issueControl exec else s.issueLane exec false with
    | .next s' => if s'.g.stop = .halt && g.stop != .halt then none else (s'.g.waitOf control).filter (!·.momentary)
    | _ => w.filter (!·.momentary)

/-- R112: what a stream waits for in the first of the clocks that pass: the reason of one clock, where its turn has left one. -/
def State.waitFirst (s : State) (k : Nat) (control : Bool) : Option Wait :=
  match (s.group k).waitOf control with
  | some w => if w.momentary then some w else s.waitNow k control
  | none => s.waitNow k control

/-- The reasons of one clock are over. -/
def Group.waited (g : Group) : Group :=
  { g with cwait := g.cwait.filter (!·.momentary), lwait := g.lwait.filter (!·.momentary) }

/-- R112: the reasons whose conditions hold for a group whose streams wait for these. -/
def Group.reasons (g : Group) (c l : Option Wait) : List Nat :=
  (if g.park.isSome && g.synced then [1] else []) ++ (if g.restarting then [2] else []) ++
  (c.map (·.number)).toList ++ (l.map (·.number)).toList ++ (if g.synced then [14] else [])

/-- R112: a stream of the group has a word to fetch and issue, so that FETCH, DEP or PORT_BUSY may hold for it: a block
runs or is due to start, or the control stream neither waits, nor is parked, nor has executed END. -/
def Group.hasWord (g : Group) (c l : Option Wait) : Bool :=
  (!g.synced && l.isNone) || (c.isNone && g.park.isNone && !g.ended)

/-- R111: add `n` cycles to a stall counter, which saturates. -/
def Group.addStall (g : Group) (r n : Nat) : Group :=
  { g with stall := SMap.set 0 g.stall r (BitVec.ofNat 32 (min 0xFFFFFFFF ((g.stall.get 0 r).toNat + n))) }

/-- R112: free choice `i` of group `k` for the clocks that pass. -/
def timing (free k i : Nat) : Nat := Config.choice free (2 ^ 81 + 4 * k + i)

/-- R111, R112: charge `n` cycles in which the group issued nothing and its streams waited for `c` and `l`.  Where a stream
has a word and no reason that ranks before them holds, FETCH, DEP and the last reason share them as the part's own timing
has it: LQ_EMPTY with an idle lane stream, and otherwise PORT_BUSY, for as many cycles, at most, as another group of the port
issued in, which are `busy`.  `i` numbers the choices. -/
def Group.charge (g : Group) (n : Nat) (c l : Option Wait) (busy free k i : Nat) : Group :=
  match (g.reasons c l).min? with
  | some r =>
    if r ≤ 13 || !g.hasWord c l then g.addStall r n
    else
      let f := timing free k i % (n + 1)
      let d := timing free k (i + 1) % (n - f + 1)
      ((g.addStall 12 f).addStall 13 d).addStall r (n - f - d)
  | none =>
    let b := timing free k i % (min busy n + 1)
    let f := timing free k (i + 1) % (n - b + 1)
    ((g.addStall 12 f).addStall 13 (n - b - f)).addStall 15 b

/-- R112: charge `n` cycles, in the first of which the streams waited for `first`, and in the others for `rest`. -/
def Group.chargeAll (g : Group) (n : Nat) (first rest : Option Wait × Option Wait) (busy free k : Nat) : Group :=
  if n = 0 then g
  else (g.charge 1 first.1 first.2 busy free k 0).charge (n - 1) rest.1 rest.2 (busy - 1) free k 2

/-- R239: the group is at its outermost XEND. -/
def Group.atXend (g : Group) : Bool :=
  g.running && g.skip == 0 && g.lpc == g.tx.tgt.toNat && (decide (g.tx.depth ≤ 1) || g.cur == 0)

/-- R239: cycles in which the watchdog counts. -/
def Group.watchdog (g : Group) (n : Nat) : Group :=
  if g.tx.active != 0 && !g.tx.serial && !g.atXend then
    { g with tx := { g.tx with watch := min 65536 (g.tx.watch + n) } }
  else g

/-- R111: a group over the `n` cycles from clock `start` on, `th` of them in which issue was stopped for a clock change, with
its streams waiting for `first` and then `rest`; `last` is the clock behind the last in which its port has issued.  A clock in
which the group has issued and that is still to come is counted with its time. -/
def Group.spend (g : Group) (start n th last : Nat) (first rest : Option Wait × Option Wait) (free k : Nat) : Group :=
  let past := g.issued.filter (· < start + n)
  let i := min n past.length
  let h := min th (n - i)
  let g := { g with groupCycles := g.groupCycles + n, issueCycles := g.issueCycles + i
                    issued := g.issued.filter fun x => !(x < start + n) }
  let g := (if h = 0 then g else g.addStall 0 h).chargeAll (n - i - h) first rest (min n (last - start) - i) free k
  (if n = 0 then g else g.waited).watchdog n

/-- R111: cycles count for a group on a core that has not retired, in a team that is neither saved nor being saved, and
that the debugger has not stopped. -/
def State.counts (s : State) (g : Group) : Bool :=
  ((s.team g.team).phase == .resident || (s.team g.team).phase == .killing) && !g.retired && g.stop != .debug

/-- R101: the clock behind the last in which a port has issued. -/
def Core.lastSlot (c : Core) (port : Nat) : Nat := max (c.slots.get 0 (portKey port false)) (c.slots.get 0 (portKey port true))

/-- R111: one group over `dt` nanoseconds. -/
def State.spendGroup (s : State) (dt k : Nat) (g : Group) : Group :=
  let c := s.cluster (clusterOf (s.team g.team).core)
  if s.counts g then
    g.spend c.cycles (c.gain dt) (c.gain (min dt c.throttleNs)) ((s.core (s.team g.team).core).lastSlot g.port)
      (s.waitFirst k true, s.waitFirst k false) (s.waitNow k true, s.waitNow k false) s.free k
  else g

/-- `dt` nanoseconds pass. -/
def State.elapse (s : State) (dt : Nat) : State :=
  if dt = 0 then s
  else
    let groups := s.groups.map fun (k, g) => (k, s.spendGroup dt k g)
    let clusters := (List.range 64).foldl (fun m c => SMap.set {} m c ((s.cluster c).tick dt)) s.clusters
    let boost := (List.range 4).foldl (fun (m : SMap BoostDie) d =>
      let b : BoostDie := SMap.get {} m d
      SMap.set {} m d { b with since := b.since + dt }) s.pkg.boost
    { s with groups, clusters, pkg := { s.pkg.tick dt with boost }, phys := s.phys + dt }.markPorts

end Sys2Proof.Machine
end

