-- ==== Sys2Proof/Machine/Perform.lean ====
section
/-! DEFINITION. Sys2Proof/Machine/Perform.lean: what one turn of the agenda does: a machine event, an issue of one or
both streams of a group or of a pair of groups, some points of an instruction, a clock of a port (R101, R102), a block or a
part of an engine command, an access of the host; what may fall between two points of one instruction or inside a commit
(R186); how requests of one cycle are ordered (R95, R99, R110, R174, R244, R349); and what ends every step. -/

namespace Sys2Proof.Machine

/-- The instruction is a machine event, which no word encodes. -/
def isEvent (i : Instr) : Bool := encode i == Encoding.none

/-! ## A word that is under way, and its watchpoints -/

/-- A stream's word that is under way goes on, with the accesses it has made and what they have hit. -/
def State.recall (s : State) (control : Bool) : State :=
  match s.midOf control with
  | some m => { s with accesses := m.noted ++ s.accesses, hit := s.hit ||| m.hit }
  | none => s

/-- R285, R430: the accesses of a stream's word that is still under way are kept until it completes; a watchpoint that one
of them hits is broadcast at once, and the group stops when the word completes. -/
def State.noteStream (s : State) (control : Bool) : State :=
  if (s.midOf control).isNone then s
  else
    let mine := s.judged control
    let ws := watchesOf (hitMask mine &&& ~~~s.hit)
    let hit := s.hit ||| watchMask ws
    let mid := s.mid.map fun m => if s.ownMid control m then { m with noted := mine, hit } else m
    let s := { s with mid, accesses := s.accesses.filter fun a => (a.lane == 32) != control }
    if ws.isEmpty then s
    else
      let s := s.broadcast ws
      if s.g.stop == .none then s.setG { s.g with asked := true } else s

/-- The accesses of the acting group's words that are still under way. -/
def State.note (s : State) : State := (s.noteStream false).noteStream true

/-! ## Issue turns -/

/-- The lane stream has a word to issue. -/
def State.laneDue (s : State) : Bool := s.mayIssue false && s.g.running && s.g.live != 0 && !s.g.timedOut

/-- R285: a stream's word issues unless a fetch watchpoint stops the group before it; a word under way goes on. -/
def State.watched (s : State) (due control : Bool) (go : State → Res) : Res :=
  if (s.midWord control).isSome then go s
  else
    match due, s.fetchWatch control with
    | true, some s' => .next s'
    | _, _ => go s

/-- The next control word of a group issues. -/
def State.turnControl (s : State) (group : Nat) : Res :=
  let s := { s with actor := group }.recall true
  (s.watched s.controlDue true fun s => s.issueControl exec).andThen State.note

/-- The next lane word of a group issues. -/
def State.turnLane (s : State) (group : Nat) (paired : Bool) : Res :=
  let s := { s with actor := group }.recall false
  (s.watched s.laneDue false fun s => s.issueLane exec paired).andThen State.note

/-- R143: both streams of a group issue in one clock. -/
def State.turnDual (s : State) (group : Nat) : Res :=
  let s := ({ s with actor := group }.recall true).recall false
  (s.watched s.controlDue true fun s => s.watched s.laneDue false fun s => s.issueDual exec).andThen State.note

/-- Between two groups that issue in one step: the watchpoints of the first (R285), and fresh choices. -/
def State.between (s : State) : State := { s.dataWatch with accesses := [], hit := 0, paged := false, free := s.free + 1 }

/-- R102: two groups issue as a pair, the winner's effects first; a winner that waits carries no partner. -/
def State.turnPair (s : State) (winner partner : Nat) : Res :=
  if !s.mayPair winner partner then .fault .notEnabled
  else
    match s.turnLane winner false with
    | .next s' =>
      if (s'.group winner).laneIssued = (s.group winner).laneIssued then .next s'
      else s'.between.turnLane partner true
    | r => r

/-- R171, R181, R240, R345: at most `n` points of a stream's word. -/
def State.turnPart (s : State) (group : Nat) (control : Bool) (n : Nat) : Res :=
  let s := { s with limit := some n }
  (if control then s.turnControl group else s.turnLane group false).andThen fun s => { s with limit := none }

/-- What a stream of a group waits for. -/
def State.waitOf (s : State) (k : Nat) (control : Bool) : Option Wait := (s.group k).waitOf control

/-- A stream of a group waits. -/
def State.setWait (s : State) (k : Nat) (control : Bool) (w : Wait) : State :=
  s.mapGroup k fun g => if control then { g with cwait := some w } else { g with lwait := some w }

/-! ## Waits for a page walk (R163) -/

/-- R163: between `s` and `s'` a group has issued a word that asks for the translation of a page outside the windows. -/
def State.touchesPage (s' : State) : Bool := s'.paged || s'.accesses.any fun a => decide (a.loc < spadBase)

/-- R163: the stream's memory instruction, which could issue with every translation at hand, waits for a walk. -/
def State.turnMiss (s : State) (k : Nat) (control : Bool) : Res :=
  if ({ s with actor := k }.midOf control).isSome || (s.group k).walks control then .fault .notEnabled
  else
    match if control then s.turnControl k else s.turnLane k false with
    | .next s' =>
      if (s'.waitOf k control).isNone && s'.touchesPage then .next (s.mapGroup k fun g => g.walk control)
      else .fault .notEnabled
    | r => r

/-! ## The clocks of a port (R101, R102) -/

/-- The core and the port of a group. -/
def State.portOf (s : State) (k : Nat) : Nat × Nat := ((s.team (s.group k).team).core, (s.group k).port)

/-- R101: a port has a clock left in the nanosecond in progress for an instruction of a stream. -/
def State.slotFree (s : State) (core port : Nat) (control : Bool) : Bool :=
  let c := s.cluster (clusterOf core)
  decide (s.slotClock core port control < c.cycles + c.gain 1)

/-- A group's stream issues in a clock of its port that is free. -/
def State.inSlot (s : State) (k : Nat) (control : Bool) (r : Res) : Res :=
  if s.slotFree (s.portOf k).1 (s.portOf k).2 control then r else .fault .notEnabled

/-- R101, R143: a clock of a port that is free for both streams. -/
def State.inClock (s : State) (core port : Nat) (r : State → Res) : Res :=
  let clock := max (s.slotClock core port true) (s.slotClock core port false)
  let c := s.core core
  let s := s.setCore core { c with slots := SMap.set 0 (SMap.set 0 c.slots (portKey port true) clock) (portKey port false) clock }
  if s.slotFree core port true then r s else .fault .notEnabled

/-- R101: the rank of a group of a port for one selection: class 0, its team's place in the queue, the rotation. -/
def State.portRank (s : State) (core port : Nat) (control : Bool) (k : Nat) : Nat :=
  let g := s.group k
  let t := s.team g.team
  let ptr := t.pointers.get 0 (portKey port control)
  b2n (t.cls != 0) * 2 ^ 20 + (s.core core).teamQ.findIdx (· == g.team) * 16 + (g.slot + 16 - ptr % 16) % 16

/-- R101: the candidates of a selection, the highest-ranked first: the port's groups but those that its timing keeps back. -/
def State.candidates (s : State) (core port : Nat) (control : Bool) (waits : List (Nat × Bool × Wait)) : List Nat :=
  ((s.groups.filter fun x => s.onPort x.2 core port).map (·.1)).filter (fun k => !waits.any fun w => w.1 == k && w.2.1 == control)
    |>.foldr (insertBy fun a b => s.portRank core port control a ≤ s.portRank core port control b) []

/-- R101: the winner of a control selection, and the state after it.  A candidate that turns out to wait does so, and one
that is ready behind the winner counts PORT_BUSY; `skip` is a winner whose issue is left to `turnDual`. -/
def State.selectControl (skip : Option Nat) : List Nat → State → Option Nat → State × Option Nat
  | [], s, won => (s, won)
  | k :: ks, s, won =>
    match s.turnControl k with
    | .next s' =>
      if (s'.waitOf k true).isSome then State.selectControl skip ks s'.between won
      else if won.isSome then State.selectControl skip ks (s.setWait k true .portBusy) won
      else State.selectControl skip ks (if skip = some k then s else s'.between) (some k)
    | _ => State.selectControl skip ks s won

/-- R101, R102: the winner of a lane selection with its partner, and the state after it; `dual` issues both its streams. -/
def State.selectLane (s0 : State) (dual : Option Nat) : List Nat → State → Option Nat → Option Nat → State × Option Nat
  | [], s, won, _ => (s, won)
  | k :: ks, s, won, mate =>
    match s.turnLane k false with
    | .next s' =>
      if (s'.waitOf k false).isSome then State.selectLane s0 dual ks s'.between won mate
      else
        match won with
        | none =>
          let s' := if dual = some k then (match s.turnDual k with
            | .next x => x
            | _ => s') else s'
          State.selectLane s0 dual ks s'.between (some k) mate
        | some w =>
          if mate.isNone && s0.mayPair w k then
            match s.turnLane k true with
            | .next x => State.selectLane s0 dual ks x.between won (some k)
            | _ => State.selectLane s0 dual ks s won mate
          else State.selectLane s0 dual ks (s.setWait k false .portBusy) won mate
    | _ => State.selectLane s0 dual ks s won mate

/-- R101, R102: one clock of a port in which the named streams' next words are not fetched, or lack a source (R100). -/
def State.turnPort (s : State) (core port : Nat) (waits : List (Nat × Bool × Wait)) : Res :=
  if waits.any fun w => w.2.2 != .fetch && w.2.2 != .dep then .fault .notEnabled
  else
    let s := waits.foldl (fun s w => if (s.waitOf w.1 w.2.1).isNone then s.setWait w.1 w.2.1 w.2.2 else s) s
    let cs := s.candidates core port true waits
    let ls := s.candidates core port false waits
    let c := (State.selectControl none cs s none).2
    let l := (State.selectLane s none ls s none none).2
    let both := if c.isSome && c == l then c else none
    .next (State.selectLane s both ls (State.selectControl both cs s none).1 none none).1

/-! ## One action -/

/-- R186, R217, R243: the oldest closed region of a team locks its lines, in none of which another commit has locked a byte;
REGION_COMMIT follows. -/
def State.lockRegion (s : State) (team : Nat) : Res :=
  let lines := ((s.team team).oldest.toList.flatMap fun r => r.writes.map (·.1 / 128)).eraseDups
  if lines.any fun x => s.mid.any fun m => s.locks m (128 * x) 128 then .fault .notEnabled
  else
    match execRegionCommit team s with
    | .next _ => .next { s with mid := { group := team * 32, control := true, body := .region } :: s.mid }
    | r => r

/-- The commit of a region ends its locks. -/
def State.unlock (s : State) (i : Instr) : State :=
  { s with mid := s.mid.filter fun m => !(m.body == .region && i == .regionCommit (m.group / 32)) }

/-- A machine event. -/
def State.turnEvent (s : State) (i : Instr) : Res :=
  if !isEvent i then .fault .notEnabled else Res.andThen (exec i s) fun s => s.unlock i

/-- An action whose writes, or transfers, are performed later, part by part. -/
def State.later (s : State) (r : State → Res) : Res := (r { s with limit := some 0 }).andThen fun s => { s with limit := none }

/-- R70: an uncorrectable error in the line of a task record's counter poisons it. -/
def State.eccCounter (s : State) (part : Nat) (va : Word) : Res :=
  match s.agentLoc part va 8 .read with
  | .error .wait => .fault .notEnabled
  | .error (.fail c a) => .next (s.taskHalt part c a 0)
  | .ok (loc, s) => if s.isCounter loc then .next (s.poisonRecord part va loc) else .fault .notEnabled

/-- What an action does. -/
def State.act (s : State) (a : Action) : Res :=
  match a with
  | .event i => s.turnEvent i
  | .control k => s.inSlot k true (s.turnControl k)
  | .lane k => s.inSlot k false (s.turnLane k false)
  | .pair k j => s.inSlot k false (s.turnPair k j)
  | .dual k => s.inClock (s.portOf k).1 (s.portOf k).2 fun s => s.turnDual k
  | .land k c i j => s.landEarly k c i j
  | .part k c n => s.inSlot k c (s.turnPart k c n)
  | .block c m id => s.engineBlock c m id
  | .hold c m id => s.later fun s => s.engineBlock c m id
  | .early c m id a => s.earlyTurn c m id a
  | .write c m id i past => s.heldTurn c m id i past
  | .slow i => s.later fun s => s.turnEvent i
  | .move p i j => s.moveTurn p i j
  | .window p i j => s.windowTurn p i j
  | .ahead t va => s.aheadTurn t va
  | .port c p ws => s.inClock c p fun s => s.turnPort c p ws
  | .miss k c => s.turnMiss k c
  | .lock t => s.lockRegion t
  | .deliver i => s.deliverTurn i
  | .fetch k c i j => s.fetchTurn k c i j
  | .eccCounter p va => s.eccCounter p va
  | .hostWrite a bs => s.hostWrite a bs
  | .hostSwap a n old new => s.hostSwap a n old new
  | .hostAtomic fn off n op x y => s.hostAtomic fn off n op x y
  | .hdmWrite pa bs => s.hdmWrite pa bs
  | .hdmRead pa n => s.hdmRead pa n

/-! ## What is under way meanwhile (log 53) -/

/-- What becomes of a word or commit that is under way when another action happens. -/
inductive Fate where
  /-- It is still under way. -/
  | keep
  /-- It is under way no more. -/
  | drop
  /-- The action may not happen before it has ended. -/
  | bar
  deriving DecidableEq, Repr

/-- The group of a word under way stands between `s` and `s'` where it stood. -/
def State.stands (s s' : State) (m : MidWord) : Bool :=
  let g := s.group m.group
  let g' := s'.group m.group
  (s'.team g'.team).phase == .resident && !g'.retired && !g'.restarting && g'.stop == g.stop && g'.stepping == g.stepping &&
  g'.inHandler == g.inHandler && g'.tx.active == g.tx.active && (if m.control then g'.cpc == g.cpc else g'.lpc == g.lpc && g'.running == g.running)

/-- R161: an access that is left of a lane word would fail now. -/
def State.wouldFail (s : State) (m : MidWord) : Bool :=
  match m.body with
  | .lanes p items _ => items.any fun y => !y.helper && !lane p.tx y.lane &&
      match s.check (s.group m.group).team y.addr 1 p.kind.need p.kind.nc with
      | .fault _ => true
      | _ => false
  | _ => false

/-- The bytes that an action has written between `s` and `s'`. -/
def State.newStores (s s' : State) : List Host.Cell := s'.stores.take (s'.stores.length - s.stores.length)

/-- R247, R274, R275, R282: a group that stops, by the halt line, a debug command, a kill or a save, leaves an XEND that waits
for the token or a word that waits on a lock where it stands: before it, where nothing of it has been performed, and, but for
a save, an XEND also behind lanes that have committed. -/
def State.stopsWaiting (s s' : State) (m : MidWord) : Fate :=
  let g := s.group m.group
  let g' := s'.group m.group
  if g.lwait != some .txCommit || (g'.stop == g.stop && g'.stepping == g.stepping) then .bar
  else
    match m.body with
    | .commit _ done locked =>
      if locked then .bar
      else if done = 0 then .drop
      else if (s'.team g'.team).phase == .saving then .bar
      else if g'.stop == .debug then .keep
      else .drop
    | .lanes .. => if m.partway then .bar else .drop
    | _ => .bar

/-- What an action that has led from `s` to `s'` means for a word or commit under way in both. -/
def State.fate (s s' : State) (m : MidWord) : Fate :=
  if (s.newStores s').any fun c => s.locks m c.1 1 then .bar
  else
    match m.body with
    | .region =>
      match execRegionCommit (m.group / 32) s' with
      | .next _ => .keep
      | _ => .bar
    | .desc _ => if s.stands s' m then .keep else if m.hit = 0 then .drop else .bar
    | _ =>
      if s'.wouldFail m then .bar
      else if s.stands s' m then .keep
      else if (s'.group m.group).restarting then .drop
      else s.stopsWaiting s' m

/-- What was under way in `s`, after an action has led to `s'`. -/
def State.reconcile (s s' : State) : Res :=
  let old := fun m => s.mid.contains m
  if s'.mid.any fun m => old m && s.fate s' m == .bar then .fault .notEnabled
  else .next { s' with mid := s'.mid.filter fun m => !old m || s.fate s' m == .keep }

/-- What a turn of the agenda does. -/
def State.perform (s : State) (a : Action) : Res :=
  match s.act a with
  | .next s' => if s.mid.isEmpty then .next s' else s.reconcile s'
  | r => r

/-! ## Requests of one cycle -/

/-- The place of `x` behind a pointer that rotates over `n`. -/
def behind (ptr n x : Nat) : Nat := (x + n - ptr % n) % n

/-- R174: the number of the requester that makes an event's accesses, but for the writes that the event's own operations give
to another (`State.tags`).  The I/O die reads and writes for the call queue; a task machine's work that no die is named for is
that of the partition's lowest die (log 100). -/
def State.eventRequester (s : State) (i : Instr) : Nat :=
  match i with
  | .windowWrite .. | .windowRead .. | .apertureWrite .. | .apertureRead .. | .wakeWrite .. | .cqConsRead .. | .cqReread .. => 256
  | .netOperation _ | .netAck .. | .netIncoming .. | .netRemoteDecrement .. => 257
  | .migrationStart .. | .migrationComplete _ => 258
  | .engineComplete c .. | .engineStop (.matrix _ c) | .engineStop (.copy _ c) => c
  | .engineStop (.group k) => (s.portOf k).1
  | .engineStop (.network _) => 257
  | .regionCommit t | .regionRestart t | .saveComplete t => (s.team t).core
  | .dispatchUnit _ d | .restore _ d | .preempt _ d _ => taskUnit d
  | .teamRetire t | .dbgKillComplete t => taskUnit (dieOf (s.team t).core)
  | .counterDecrement p _ | .recordComplete p _ | .batchClose p _ | .rangeSplit p _ | .netEnqueue p _ | .engineStop (.tasks p) =>
    taskUnit (s.homeDie p)
  | .dumpWrite p => debugUnit (s.homeDie p)
  | .traceSample k _ => debugUnit (dieOf (s.portOf k).1)
  | _ => 259

/-- R174: the number of the requester that makes an action's accesses. -/
def State.requester (s : State) : Action → Nat
  | .control k | .lane k | .part k .. | .pair k _ | .dual k | .land k .. | .miss k _ | .fetch k .. => (s.portOf k).1
  | .block c .. | .hold c .. | .early c .. | .write c .. | .port c .. => c
  | .lock t | .ahead t _ => (s.team t).core
  | .window .. | .hostAtomic .. | .hdmWrite .. | .hdmRead .. => 256
  | .move .. => 257
  | .event i | .slow i => s.eventRequester i
  | .deliver _ | .eccCounter .. | .hostWrite .. | .hostSwap .. => 259

/-- The die of a requester, the I/O die's walks counting as die 0's (log 100). -/
def requesterDie (r : Nat) : Nat := if r < 256 then dieOf r else if 260 ≤ r then r % 4 else 0

/-- The granules that an action of a lane stream locks to commit between `s` and `s'` (R240). -/
def State.granuleLocks (s s' : State) : Action → List Nat
  | .lane k | .part k false _ | .dual k =>
    let g := s.group k
    if g.tx.serial || g.tx.active = 0 || ((s'.group k).tx.depth != 0 && !(s'.mid.any fun m => m.group == k && m.body.isCommit)) then []
    else (lanesOf g.tx.active).flatMap g.commitGranules
  | _ => []

/-- What an action asks for in this cycle. -/
structure Request where
  /-- The action. -/
  act : Action
  /-- It can happen. -/
  able : Bool := false
  /-- The device lines that it asks to own, with the requester for each (R174). -/
  lines : List (Nat × Nat) := []
  /-- The partitions whose serial token it asks for (R244). -/
  bids : List Nat := []
  /-- GID of a group whose engine command, or instruction on an accumulator slot, it has accepted (R349). -/
  cmd : Option Nat := none
  /-- Teams a group of which it brings to a PBEGIN (R192). -/
  arrives : List Nat := []
  /-- Teams a group of which it ends (R192). -/
  ends : List Nat := []
  deriving DecidableEq, Repr

/-- The device line of a location. -/
def lineOf (loc : Nat) : Option Nat := if loc < hostBase then some (loc / 128) else none

/-- R174: the locations that an action with requester `r` has written between `s` and `s'`, each with its writer. -/
def State.newWriters (s s' : State) (r : Nat) : List (Nat × Nat) :=
  (s.newStores s').zipIdx.map fun (c, i) =>
    (c.1, ((s'.tags.find? (·.1 == s'.stores.length - 1 - i)).map (·.2)).getD r)

/-- R174: the lines that an action asks to own between `s` and `s'`, each with the requester: those it writes, those it locks,
and, for the walkers of its die, those of the entries it marks. -/
def State.ownership (s s' : State) (a : Action) : List (Nat × Nat) :=
  let r := s.requester a
  let marks := s'.walked.take (s'.walked.length - s.walked.length)
  let marked := fun (l : Nat) => marks.any fun m => decide (m ≤ l) && decide (l < m + 8)
  let locked := match a with
    | .lock t => (s.team t).oldest.toList.flatMap fun x => x.writes.map (·.1)
    | _ => []
  let mine := (((s'.accesses.filter (·.wr)).map (·.loc)) ++ s.granuleLocks s' a ++ locked).map (·, r)
  let all := mine ++ ((s.newWriters s' r).filter fun x => !marked x.1) ++ marks.map (·, 264 + requesterDie r)
  (all.filterMap fun x => (lineOf x.1).map (·, x.2)).eraseDups

/-- R244: a group has asked for the token of a partition since `s0`. -/
def State.asksToken (s0 : State) (part k : Nat) : Bool :=
  !(s0.part part).serialQ.contains k && (s0.part part).serialHolder != some k

/-- R349: the word that a group's control stream stands at is an engine command, or acts on an accumulator slot. -/
def State.slotWord (s : State) (k : Nat) : Bool :=
  match { s with actor := k }.fetch32 (s.group k).cpc with
  | .ok (w, _) =>
    match decodeControl w with
    | .ok (.tzero ..) | .ok (.tstat ..) => true
    | _ => false
  | .error _ => false

/-- R349: GID of the group whose engine command, TZERO or TSTAT has been accepted between `s` and `s'`. -/
def State.newCmdGid (s s' : State) : Option Nat :=
  s'.groups.findSome? fun (k, g) =>
    if g.ctlIssued ≠ (s.group k).ctlIssued && (s'.nextCmd != s.nextCmd || s.slotWord k) then some (s.gid g) else none

/-- The teams of the groups of which `p` holds in `s'` and did not in `s`. -/
def State.turned (s s' : State) (p : Group → Bool) : List Nat :=
  ((s'.groups.filter fun x => p x.2 && !p (s.group x.1)).map (·.2.team)).eraseDups

/-- R192: the teams of which a group has arrived at a PBEGIN between `s` and `s'`: it waits, or has opened the region. -/
def State.arrivals (s s' : State) : List Nat :=
  s.turned s' (·.atPbegin.isSome) ++
  (s'.teams.filter fun x => x.2.openRegion.isSome && (s.team x.1).openRegion.isNone).map (·.1)

/-- What an action would ask for. -/
def State.asks (s : State) (a : Action) : Request :=
  match s.perform a with
  | .next s' =>
    { act := a, able := true, lines := s.ownership s' a
      bids := (List.range 8).filter fun p => (s'.part p).serialQ.any (s.asksToken p)
      cmd := s.newCmdGid s', arrives := s.arrivals s', ends := s.turned s' (·.ended) }
  | _ => { act := a }

/-- R95: the partition and the die of a claim. -/
def claimOf : Action → Option (Nat × Nat)
  | .event (.dispatchUnit p d) => some (p, d)
  | .event (.restore p d) => some (p, d)
  | _ => none

/-- R95: of the claims of a partition that several dies make in one cycle the first at or after the priority places its
unit, and the priority moves behind it; the others examine the queue again. -/
def State.claimPart (x : State × List Request) (part : Nat) : State × List Request :=
  let (s, rs) := x
  let mine := fun (r : Request) => (claimOf r.act).any (·.1 == part)
  let able := rs.filter fun r => mine r && r.able
  let key := fun (r : Request) => behind (s.part part).diePrio 4 (((claimOf r.act).map (·.2)).getD 0)
  match sortBy (fun a b => decide (key a ≤ key b)) able with
  | w :: _ :: _ =>
    let die := ((claimOf w.act).map (·.2)).getD 0
    (s.setPart part { s.part part with diePrio := (die + 1) % 4 }, rs.filter fun r => !mine r || r.act == w.act)
  | [_] => (s, rs.filter fun r => !mine r || r.able)
  | [] => x

/-- Pairs of requests, by place, the first of which goes before the second: those with a lower key before those with a higher. -/
def keyed (key : Request → Option Nat) (rs : List Request) : List (Nat × Nat) :=
  let ks := (rs.map key).zipIdx
  ks.flatMap fun (x, i) => ks.filterMap fun (y, j) =>
    match x, y with
    | some x, some y => if x < y then some (i, j) else none
    | _, _ => none

/-- Pairs of requests of which the first goes before the second: those with `p` before those with `q`. -/
def ahead (p q : Request → Bool) (rs : List Request) : List (Nat × Nat) :=
  (rs.zipIdx.filter fun x => p x.1).flatMap fun x => (rs.zipIdx.filter fun y => q y.1 && y.2 != x.2).map fun y => (x.2, y.2)

/-- R174: the requesters of a contested line go in the order of its slice's pointer, which moves behind the winner. -/
def State.contendLine (rs : List Request) (x : State × List (Nat × Nat)) (line : Nat) : State × List (Nat × Nat) :=
  let (s, es) := x
  let slice := homeSlice s.pkg.ilv (line * 128)
  let place := behind (s.slicePtr.get 0 slice) 272
  let who := fun (r : Request) => ((r.lines.filter (·.1 == line)).map fun l => place l.2).min?
  let all := ((rs.flatMap (·.lines)).filter (·.1 == line)).map (·.2)
  match sortBy (fun a b => decide (place a ≤ place b)) all.eraseDups with
  | w :: _ :: _ => ({ s with slicePtr := SMap.set 0 s.slicePtr slice ((w + 1) % 272) }, es ++ keyed who rs)
  | _ => x

/-- R99: of two teams of a core that restart the one with the lower GID of group 0 goes to the head of the queue last. -/
def State.restartKey (s : State) (r : Request) : Option Nat :=
  match r.act with
  | .event (.regionRestart t) => some (2 ^ 14 - s.gid0 t)
  | _ => none

/-- R110: a wake and a reread, which follow the writes of their cycle. -/
def Request.wakes (r : Request) : Bool :=
  match r.act with
  | .event (.waitmWake _) => true
  | .event (.waitmRecheck _) => true
  | _ => false

/-- R244: the grant of a token whose first request arrives in this cycle. -/
def Request.grants (part : Nat) (r : Request) : Bool := r.act == .event (.serialTokenGrant part) && !r.able

/-- The places of some requests, in the order that is nearest to theirs among those in which no pair of `es` is reversed; none
where there is no such order.  The first argument bounds them. -/
def inOrder (es : List (Nat × Nat)) : Nat → List Nat → Option (List Nat)
  | _, [] => some []
  | 0, _ => none
  | n + 1, xs =>
    match xs.find? fun j => !es.any fun e => e.2 == j && xs.contains e.1 with
    | none => none
    | some j => (inOrder es n (xs.erase j)).map (j :: ·)

/-- The requests of one cycle, in the order of the arbiters that they meet; none where no order of whole actions satisfies
them all. -/
def State.arrange (s : State) (rs : List Request) : Option (State × List Action) :=
  let parts := List.range 8
  let (s, rs) := parts.foldl State.claimPart (s, rs)
  let (s, lines) := ((rs.flatMap fun r => r.lines.map (·.1)).eraseDups).foldl (State.contendLine rs) (s, [])
  let es := lines ++ keyed s.restartKey rs ++ keyed (·.cmd) rs ++ ahead (fun r => !r.wakes) (·.wakes) rs ++
    (rs.flatMap (·.ends)).eraseDups.flatMap (fun t => ahead (·.arrives.contains t) (·.ends.contains t) rs) ++
    parts.flatMap fun p => ahead (·.bids.contains p) (·.grants p) rs
  (inOrder es rs.length (List.range rs.length)).map fun js => (s, js.filterMap fun j => (rs[j]?).map (·.act))

/-- R244: the requests for the token of a partition that have arrived since `s0` stand in the order of the token unit's pointer
over cores, and by GID within a core. -/
def State.sortBids (s0 s : State) (part : Nat) : State :=
  let q := (s.part part).serialQ
  let new := q.filter (s0.asksToken part)
  if new.length < 2 then s
  else
    let key := fun (k : Nat) => behind (s0.part part).serialPtr 256 (s.portOf k).1 * 2 ^ 14 + s.gid (s.group k)
    s.setPart part { s.part part with
      serialQ := q.filter (fun k => !s0.asksToken part k) ++ sortBy (fun a b => decide (key a ≤ key b)) new }

/-- R244: where several cores have asked for the token of a partition since `s0` its pointer moves behind the first of them. -/
def State.moveToken (s0 s : State) (part : Nat) : State :=
  let p := s.part part
  let cores := (((p.serialHolder.toList ++ p.serialQ).filter (s0.asksToken part)).map fun k => (s.portOf k).1).eraseDups
  let place := behind (s0.part part).serialPtr 256
  match sortBy (fun a b => decide (place a ≤ place b)) cores with
  | w :: _ :: _ => s.setPart part { p with serialPtr := (w + 1) % 256 }
  | _ => s

/-- Actions of the cycle that began in `s0`, one after the other. -/
def State.performAll (s0 : State) : State → List Action → Res
  | s, [] => .next s
  | s, a :: as =>
    match s.perform a with
    | .next s' => State.performAll s0 (foldState (List.range 8) s'.between fun p s => s0.sortBids s p) as
    | r => r

/-- Actions of one cycle. -/
def State.performCycle (s : State) (as : List Action) : Res :=
  match s.arrange (as.map s.asks) with
  | none => .fault .notEnabled
  | some (s', as) => s'.performAll s' as

/-- A turn: its action, or those of one cycle. -/
def State.turn (s : State) (t : Turn) : Res :=
  (if t.also.isEmpty then s.perform t.act else s.performCycle (t.act :: t.also)).andThen fun s' =>
    foldState (List.range 8) s' fun p s' => s.moveToken (s.sortBids s' p) p

/-- The end of a step that began with memory `mem`: data watchpoints (R285), gated ports (R283), class blocks (R74), the
writes of the step, the counter of free values. -/
def State.settle (s : State) (mem : List Host.Cell) : State :=
  let s := s.dataWatch.ungate.watchClasses
  { s with mem := Memory.flush mem s.stores, stores := [], own := [], tags := [], accesses := [], hit := 0, paged := false, starved := [], walked := []
           limit := none, free := s.free + 1 }

end Sys2Proof.Machine
end

