-- ==== Sys2Proof/Machine/Placement.lean ====
section
/-! DEFINITION. Sys2Proof/Machine/Placement.lean: an instruction placed where the machine fetches next.  The machine
loads its programs through its host and its dispatcher; `State.withFetchWord` stands for that load (log 60). -/

namespace Sys2Proof.Machine

/-- Bytes placed in memory from outside. -/
def State.place (s : State) (loc : Nat) (bs : List Byte) : State := { s with mem := Memory.flush s.mem (cellsAt loc bs) }

/-- Where the placed control stream stands. -/
def placedControl : Word := 0x1000

/-- Where the placed lane words stand. -/
def placedLane : Word := 0x2000

/-- R155-R157: tables at 4 KiB, 8 KiB and 12 KiB that map the first 1 GiB of addresses to the frame at 1 GiB, readable,
writable and executable. -/
def State.placeTables (s : State) : State :=
  ((s.place 0x1000 (wordBytes 8 0x202D)).place 0x2000 (wordBytes 8 0x302D)).place 0x3000 (wordBytes 8 0x4000006F)

/-- Partition 0 runs on core 0 with one team of one group. -/
def State.placeTeam (s : State) (isLane : Bool) : State :=
  { s with
    parts := s.parts.put 0 { state := .run, page := { ptRoot := 0x1000, cores := [(0, 1)] } }
    clusters := s.clusters.put 0 {}
    cores := s.cores.put 0 { teamQ := [0] }
    teams := s.teams.put 0 { phase := .resident, type := { ctlBase := placedControl, laneBase := placedLane }
                             allot := { seats := [(0, 0)] } }
    groups := s.groups.put 0 { running := isLane, cpc := placedControl }
    nextTeam := max 1 s.nextTeam }

/-- The bytes of one instruction, where the group's next word of that stream is fetched, and the turn that issues it. -/
def State.placeWord (s : State) (isLane : Bool) (w : Nat) : State :=
  let s := (s.placeTables.place (0x40000000 + (if isLane then placedLane else placedControl).toNat)
    (leBytes (if isLane then 12 else 4) w)).placeTeam isLane
  { s with agenda := [{ dt := 0, act := if isLane then .lane 0 else .control 0 }] }

end Sys2Proof.Machine
end

