-- ==== Sys2Proof/Machine/Step.lean ====
section
/-! DEFINITION. Sys2Proof/Machine/Step.lean: one step of the machine: the oldest turn of the agenda. -/

namespace Sys2Proof.Machine

/-- One step: the time of the oldest turn passes and what it names happens.  With no turn left a nanosecond passes and
nothing else (log 59). -/
def step (s : State) : Host.Outcome State Fault Refusal :=
  match s.agenda with
  | [] => .next ((s.elapse 1).settle s.mem)
  | t :: rest => ((({ s with agenda := rest }).elapse t.dt).turn t).andThen fun s' => s'.settle s.mem

/-- The state in which `step` fetches and runs the instruction of `nbits` bits `w`: a control word (32), or a lane
word (96). -/
def State.withFetchWord (s : State) (nbits w : Nat) : State := s.placeWord (nbits == 96) w

end Sys2Proof.Machine
end

