-- ==== Sys2Proof/Safety.lean ====
section
/-! DEFINITION. Sys2Proof/Safety.lean: what counts as a sound state between two steps and as a safe step, and the shapes
of effect in which the obligations speak: what a word of one kind writes, and that it leaves the rest alone. -/

namespace Sys2Proof.Machine

/-- A state between two steps: memory in its canonical form, no write left to perform, no access left to watch. -/
structure Settled (s : State) : Prop where
  /-- The memory list is in canonical form. -/
  mem_wf : Memory.wf s.mem = true
  /-- The write buffer is empty. -/
  stores_nil : s.stores = []
  /-- No access waits for the watchpoints. -/
  accesses_nil : s.accesses = []
  /-- No bound on the points of an instruction is left over. -/
  limit_none : s.limit = none
  /-- Nor is a mark that the step kept of its writes. -/
  marks_nil : s.own = [] ∧ s.tags = []
  /-- No memory instruction is in progress. -/
  paged_false : s.paged = false

/-- Every team, group and engine command of the machine stands in one partition (R41, R77). -/
structure Owned (s : State) : Prop where
  /-- A team is listed once. -/
  team : ∀ x, x ∈ s.teams → s.team x.1 = x.2
  /-- So is a group, whose team is listed and stands in its partition. -/
  group : ∀ x, x ∈ s.groups → s.group x.1 = x.2 ∧ ∃ y, y ∈ s.teams ∧ y.1 = x.2.team ∧ y.2.part = x.2.part
  /-- The groups of a team stand in its partition. -/
  member : ∀ x, x ∈ s.teams → ∀ k, k ∈ s.groupsOf x.1 → (s.group k).part = x.2.part
  /-- The commands of a team stand in its partition. -/
  cmd : ∀ c matrix x, x ∈ (s.core c).queue matrix → x.part = (s.team x.team).part

/-- The step answers a next state. -/
def Answers (s : State) : Prop := ∃ t, step s = .next t

/-- The instruction answers a next state, and that state satisfies `post`. -/
def Gives (i : Instr) (s : State) (post : State → Prop) : Prop := ∃ t, exec i s = .next t ∧ post t

/-- Every byte of memory reads as before. -/
def SameBytes (s t : State) : Prop := ∀ a, t.byteAt a = s.byteAt a

/-- Only the acting group may differ: every other group, every byte of memory and every other field is as before, but for the
model's note that the word has asked for the translation of a page (R163). -/
structure OnlyActor (s t : State) : Prop where
  /-- Every field but the groups. -/
  rest : t = { s with groups := t.groups, paged := t.paged }
  /-- Every other group. -/
  others : ∀ k, k ≠ s.actor → t.group k = s.group k
  /-- Memory. -/
  bytes : SameBytes s t

/-- A control word completed at `pc` that wrote `v` to kd and nothing else; k0 takes no value (R127). -/
structure WroteK (s t : State) (d : BitVec 6) (v pc : Word) : Prop extends OnlyActor s t where
  /-- kd. -/
  value : t.g.getK d = if d = 0 then 0 else v
  /-- Every other k register. -/
  kept : ∀ r, r ≠ d → t.g.getK r = s.g.getK r
  /-- The rest of the group. -/
  group : t.g = { s.g with k := t.g.k, cpc := pc, cwait := none }

/-- A control word completed that wrote predicate `p` and nothing else. -/
structure WroteC (s t : State) (p : BitVec 3) (v : Bool) : Prop extends OnlyActor s t where
  /-- cp. -/
  value : t.g.getC p = v
  /-- Every other predicate. -/
  kept : ∀ q, q ≠ p → t.g.getC q = s.g.getC q
  /-- The rest of the group. -/
  group : t.g = { s.g with c := t.g.c, cpc := s.g.cpc + 4, cwait := none }

/-- A control word completed at `pc`: the acting group is `g` with its control PC there, and nothing else changed. -/
structure Became (s t : State) (g : Group) : Prop extends OnlyActor s t where
  /-- The acting group. -/
  group : t.g = g

/-- The word writes `v` to kd, completes at the next word and does nothing else. -/
def SetsK (i : Instr) (s : State) (d : BitVec 6) (v : Word) : Prop := Gives i s fun t => WroteK s t d v (s.g.cpc + 4)

/-- The word writes to predicate `p` whether `q` holds, and does nothing else. -/
def SetsC (i : Instr) (s : State) (p : BitVec 3) (q : Prop) : Prop :=
  Gives i s fun t => ∃ v : Bool, WroteC s t p v ∧ (v = true ↔ q)

/-- R323: the conditions, on the values as signed or as unsigned numbers. -/
def Compares (c : BitVec 3) (x y : Word) : Prop :=
  match c.toNat with
  | 0 => x = y
  | 1 => x ≠ y
  | 2 => x.toInt < y.toInt
  | 3 => y.toInt ≤ x.toInt
  | 4 => x.toNat < y.toNat
  | 5 => y.toNat ≤ x.toNat
  | 6 => x.toInt ≤ y.toInt
  | _ => y.toInt < x.toInt

/-- The control word waits for this reason without completing. -/
def Waits (i : Instr) (s : State) (w : Wait) : Prop := Gives i s fun t => Became s t { s.g with cwait := some w }

/-- A group whose control word has completed at `pc`. -/
def Group.atPc (g : Group) (pc : Word) : Group := { g with cpc := pc, cwait := none }

/-- A group whose control word has completed. -/
def Group.nextWord (g : Group) : Group := g.atPc (g.cpc + 4)

/-- A group whose lane word has completed. -/
def Group.nextLane (g : Group) : Group := { g with lpc := g.lpc + 1, lwait := none }

/-- `h` is `g`, but that a WAITM which has parked it may have been woken (R110). -/
def SameButWake (g h : Group) : Prop :=
  h = g ∨ ∃ d a n w x since, g.park = some (.waitm d a n w x since) ∧ h = { g with park := some (.waitm d a n w true since) }

/-- The acting group has faulted with this cause (R9, R274, R276): it stops, its record joins the partition's halt line,
which `cause` raises where it was not raised, and no register of any group has changed; nor has a byte of memory or a wake
flag, unless a trace stream runs, whose stores wake the groups that watch their lines. -/
structure Faulted (s t : State) (cause : BitVec 8) (flanes : Word32) (addr info : Word) : Prop where
  /-- The group stops with its registers as they were; a step of it ends (R286). -/
  group : t.g = { s.g with stop := .halt, asked := false, stepping := none, stepOver := false }
  /-- Every other group. -/
  others : ∀ k, k ≠ s.actor → SameButWake (s.group k) (t.group k)
  /-- The halt line and its records. -/
  line : ∃ h, t.p.halt = some h ∧ s.groupRecord s.g 0 cause flanes addr info ∈ h.records ∧
    h.cause = (match s.p.halt with
      | some h' => h'.cause
      | none => cause)
  /-- Memory and the other groups, where no trace stream runs. -/
  quiet : bit s.p.dbg.ctl 1 = false → SameBytes s t ∧ ∀ k, k ≠ s.actor → t.group k = s.group k

/-- The halt line of a partition stands raised with this record among its own, and with the cause of the first origin
(R274). -/
def HaltRaised (s t : State) (part : Nat) (cause : BitVec 8) (r : StopRecord) : Prop :=
  ∃ h, (t.part part).halt = some h ∧ r ∈ h.records ∧ h.cause = (match (s.part part).halt with
    | some h' => h'.cause
    | none => cause)

/-- Bit `i` of a partition's PART_ERR is set, and no other field of its page, no group and no byte has changed. -/
def ErrSet (s t : State) (part i : Nat) : Prop :=
  (t.part part).page = { (s.part part).page with err := (s.part part).page.err ||| (1#8 <<< i) } ∧
  (t.part part).state = (s.part part).state ∧ t.groups = s.groups ∧ SameBytes s t

/-- The acting group, which was `g`, has entered its trap handler (R143, R144, R273): the block in progress is set aside,
the trap registers say why, and the control stream stands at TRAPV.  Every other register of the group, its lane
queue and its condition queue are as in `g`. -/
structure Trapped (s t : State) (g : Group) (x : Trap) : Prop where
  /-- The acting group. -/
  group : t.g = { g with
    trapSlot := some { running := g.running, lpc := g.lpc, cur := g.cur, stack := g.stack, skip := g.skip, lfmt := g.lfmt
                       l := g.l, a := g.a }
    running := false, stack := [], skip := 0, handlerBlock := none, walking := 0, inHandler := true
    cwait := none, lwait := none, threshold := none, atBarrier := none, atPbegin := none, closed := g.closed.filter (!·), ended := false, park := t.g.park, inCall := false
    seen := []
    trapV := s.t.type.trapV, cpc := s.t.type.trapV, trapPc := x.pc, trapLanes := BitVec.ofNat 64 x.lanes.toNat
    trapInfo0 := t.g.trapInfo0, trapInfo1 := if g.inCall then g.cpc + 4 else g.cpc, trapInfo2 := x.info2, trapInfo3 := s.pkg.ns }
  /-- TRAPINFO0: DETAIL [63:32], TX [9], STREAM [8], CAUSE [7:0]. -/
  info0 : t.g.trapInfo0.toNat = x.detail.toNat * 2 ^ 32 + b2n x.tx * 2 ^ 9 + b2n x.control * 2 ^ 8 + x.cause.toNat
  /-- A group parked by SCALL stays parked. -/
  park : ∀ d n, g.park = some (.call d n) → t.g.park = g.park
  /-- Every other group. -/
  others : ∀ k, k ≠ s.actor → SameButWake (s.group k) (t.group k)
  /-- Memory and the other groups, where no trace stream runs. -/
  quiet : bit (s.part g.part).dbg.ctl 1 = false → SameBytes s t ∧ ∀ k, k ≠ s.actor → t.group k = s.group k

/-- R314: a control word that raises ILLEGAL_OP wherever it is fetched and due to issue. -/
def IllegalControl (w : Word32) : Prop :=
  ∀ s s' : State, s.midOf true = none → s.mayIssue true = true → s.g.ended = false → s.g.park = none →
    s.g.walks true = false → s.fetch32 s.g.cpc = .ok (w, s') → ∃ t, s.issueControl exec = .next t ∧ Faulted s' t causeIllegalOp 0 0 0

/-- R314: a lane word that raises ILLEGAL_OP when it issues. -/
def IllegalLane (w : LaneWord) : Prop :=
  ∀ (s : State) (paired : Bool), ∃ t, s.runLane exec w paired = .next t ∧ Faulted s t causeIllegalOp 0 0 0

/-- What the acting group's passed check leaves besides the access itself: the walker's marks and the migration counters
(R160, R23), and the line that the host agent takes (R58). -/
def State.afterCheck (s : State) (x : Target) (marks : List (Nat × Word)) (skip starve : Nat) (write : Bool) : State :=
  (s.applyMarks marks skip starve).holdLine s.g.part x write

/-- Memory is as in `u`, except that the bytes `bs` stand at `loc`. -/
def Stored (u t : State) (loc : Nat) (bs : List Byte) : Prop :=
  ∀ a, t.byteAt a = if loc ≤ a ∧ a < loc + bs.length then bs.getD (a - loc) 0 else u.byteAt a

/-- The team's own view is as in `u`, except that the bytes `bs` stand at `loc`. -/
def Versioned (u t : State) (team loc : Nat) (bs : List Byte) : Prop :=
  ∀ a, t.viewByte team a = if loc ≤ a ∧ a < loc + bs.length then bs.getD (a - loc) 0 else u.viewByte team a

/-- The acting group's stores go to memory: its team has no open speculative region. -/
abbrev State.plain (s : State) : Prop := (s.t.openRegion.any fun r => r.spec) = false

/-- Writes at these locations may have woken groups that watch their lines (R110), and nothing else has happened to any
group but the acting one. -/
structure OthersWoken (s t : State) (locs : List Nat) : Prop where
  /-- Every other group, but for its wake flag. -/
  same : ∀ k, k ≠ s.actor → SameButWake (s.group k) (t.group k)
  /-- A group that watches none of the lines. -/
  kept : ∀ k, k ≠ s.actor → (∀ loc, loc ∈ locs → (s.group k).wakeAt loc = s.group k) → t.group k = s.group k

/-- Every other group that watches the line of a write at `loc` is woken, unless the location is a system address
(R110). -/
def Wakes (s t : State) (loc : Nat) : Prop :=
  loc < hostBase ∨ spadBase ≤ loc → ∀ k d a n w x since, k ≠ s.actor → (s.group k).park = some (.waitm d a n w x since) →
    w / 128 = loc / 128 → (t.group k).park = some (.waitm d a n w true since)

/-- A team's barrier `b` has the fields `x`; its other barriers, memory, and the other teams but for where their rotation
stands (R101) are as before. -/
structure BarSet (s t : State) (b : Nat) (x : Bar) : Prop where
  /-- The barrier. -/
  bar : t.bar s.g.team b = x
  /-- The other barriers. -/
  kept : ∀ j, j ≠ b → t.bar s.g.team j = s.bar s.g.team j
  /-- The other teams. -/
  teams : ∀ k, k ≠ s.g.team → t.team k = { s.team k with pointers := (t.team k).pointers }
  /-- Memory. -/
  bytes : SameBytes s t

/-- Every group of a team that waits at barrier `b` is woken with predicate `v`: its BWAIT completes, unless the group is
stopped, which looks again when it resumes (R142, R275); no other group changes. -/
structure WokenAt (s t : State) (team b : Nat) (v : Bool) : Prop where
  /-- The groups that wait. -/
  woken : ∀ j h p, j ∈ s.groupsOf team → (s.group j).atBarrier = some (b, h, p) → (s.group j).stop = .none →
    ∃ clocks, t.group j = { ((s.group j).setC (BitVec.ofNat 3 p) v).stepped true with
      cpc := (s.group j).cpc + 4, cwait := none, atBarrier := none, ctlIssued := (s.group j).ctlIssued + 1, issued := clocks
      skid := (s.group j).skid + b2n (s.lineReached j) }
  /-- The stopped ones. -/
  stopped : ∀ j h p, j ∈ s.groupsOf team → (s.group j).atBarrier = some (b, h, p) → (s.group j).stop ≠ .none →
    (s.group j).stepping ≠ some true → t.group j = { s.group j with atBarrier := none }
  /-- The others. -/
  others : ∀ j, j ≠ s.actor → (j ∉ s.groupsOf team ∨ (s.group j).atBarrier.map (·.1) ≠ some b) → t.group j = s.group j

/-- Register `r` of the o file (`true`) or of the v file lies in the run of `n` registers that starts at `x`. -/
def inRun (x : Operand) (n : Nat) (o : Bool) (r : Nat) : Bool :=
  match x with
  | .v m => !o && decide (m.toNat ≤ r ∧ r < m.toNat + n)
  | .o m => o && decide (m.toNat ≤ r ∧ r < m.toNat + n)
  | _ => false

/-- The lane registers after a word that wrote `n` registers of `f.dst` in its executing lanes (R119, R128, R130,
R370). -/
structure LaneRegs (g h : Group) (f : LaneFields) (n : Nat) (out : Nat → LaneOut) : Prop where
  /-- The bits of the destination in an executing lane. -/
  bits : ∀ i, i < 32 → lane (g.active f.guard) i = true → h.regBits f.dst i n = (out i).bits % 2 ^ (32 * n)
  /-- Its tag: the base register's; the others take 0. -/
  tag : ∀ i, i < 32 → lane (g.active f.guard) i = true → ∀ k, k < n →
    (h.reg f.dst k i).tag = if k = 0 then BitVec.ofNat 6 (out i).tag else 0
  /-- Every other register, and every register in a lane that does not execute. -/
  keptV : ∀ r i, i < 32 → (lane (g.active f.guard) i = false ∨ inRun f.dst n false r = false) →
    h.v.get {} (r * 32 + i) = g.v.get {} (r * 32 + i)
  /-- The same for the o file. -/
  keptO : ∀ r i, i < 32 → (lane (g.active f.guard) i = false ∨ inRun f.dst n true r = false) →
    h.o.get {} (r * 32 + i) = g.o.get {} (r * 32 + i)
  /-- l0 takes the destination. -/
  last : ∀ i, i < 32 → h.l.get {} i = ⟨BitVec.ofNat 64 (h.regBits f.dst i (min n 2)), (h.reg f.dst 0 i).tag⟩
  /-- l1 to l3 take l0 to l2. -/
  shift : ∀ j i, j < 3 → i < 32 → h.l.get {} ((j + 1) * 32 + i) = g.l.get {} (j * 32 + i)

/-- A lane word completed that wrote `n` registers of `f.dst` and nothing else. -/
structure WroteLanes (s t : State) (f : LaneFields) (n : Nat) (out : Nat → LaneOut) : Prop extends OnlyActor s t where
  /-- The lane registers. -/
  regs : LaneRegs s.g t.g f n out
  /-- The rest of the group. -/
  group : t.g = { s.g with v := t.g.v, o := t.g.o, l := t.g.l, lpc := s.g.lpc + 1, lwait := none }

/-- The word writes `n` registers of `f.dst` and does nothing else. -/
def SetsLanes (i : Instr) (s : State) (f : LaneFields) (n : Nat) (out : Nat → LaneOut) : Prop :=
  Gives i s fun t => WroteLanes s t f n out

/-- Only the acting group differs, and its lane word has completed with group `g`. -/
def LaneBecame (i : Instr) (s : State) (g : Group) : Prop := Gives i s fun t => Became s t g.nextLane

/-- The lane word waits for this reason without completing. -/
def LaneWaits (i : Instr) (s : State) (w : Wait) : Prop := Gives i s fun t => Became s t { s.g with lwait := some w }

/-- The word faults with this cause. -/
def Faults (i : Instr) (s : State) (c : BitVec 8) : Prop := Gives i s fun t => Faulted s t c 0 0 0

/-- An exact integer narrowed to `w` bits, wrapping or saturating as signed (R374). -/
def narrowInt (sat : Bool) (w : Nat) (x : Int) : Nat :=
  (BitVec.ofInt w (if sat then max (-(2 ^ (w - 1))) (min (2 ^ (w - 1) - 1) x) else x)).toNat

/-- The magnitude of a finite value, as a number. -/
def FVal.mag : FVal → Rat
  | .fin _ m e => (m : Rat) * 2 ^ e
  | _ => 0

/-- One row of R249's table of formats, with the exponent of its largest finite number. -/
structure FmtRow where
  /-- Code. -/
  code : Nat
  /-- Exponent bits. -/
  eb : Nat
  /-- Bias. -/
  bias : Nat
  /-- Fraction bits. -/
  fb : Nat
  /-- Exponent of the largest finite number. -/
  emax : Int
  /-- Its significand, as a multiple of the last bit. -/
  top : Nat
  /-- The encoding that a NaN becomes. -/
  nan : Nat

/-- R249, R250: the formats. -/
def fmtRows : List FmtRow :=
  [⟨0, 8, 127, 23, 127, 2 ^ 24 - 1, 0x7FC00000⟩, ⟨1, 11, 1023, 52, 1023, 2 ^ 53 - 1, 0x7FF8000000000000⟩,
   ⟨2, 5, 15, 10, 15, 2 ^ 11 - 1, 0x7E00⟩, ⟨3, 8, 127, 7, 127, 2 ^ 8 - 1, 0x7FC0⟩, ⟨4, 4, 7, 3, 8, 14, 0x7F⟩,
   ⟨5, 5, 15, 2, 15, 7, 0x7E⟩, ⟨6, 2, 1, 3, 2, 15, 0⟩, ⟨7, 3, 3, 2, 4, 7, 0⟩, ⟨8, 2, 1, 1, 2, 3, 0⟩]

/-- Bits of an encoding. -/
def FmtRow.width (r : FmtRow) : Nat := 1 + r.eb + r.fb

/-- The weight of the last bit of the largest finite numbers. -/
def FmtRow.ulp (r : FmtRow) : Rat := 2 ^ (r.emax - r.fb)

/-- The largest finite magnitude. -/
def FmtRow.max (r : FmtRow) : Rat := (r.top : Rat) * r.ulp

/-- Encoding `c` is that of the finite magnitude `v`. -/
def FmtRow.holds (r : FmtRow) (c : Nat) (v : Rat) : Prop :=
  c < 2 ^ (r.eb + r.fb) ∧ (r.code ∈ [0, 1, 2, 3, 5] → c / 2 ^ r.fb ≠ 2 ^ r.eb - 1) ∧ (r.code = 4 → c ≠ 0x7F) ∧
  v = if c / 2 ^ r.fb = 0 then (c : Rat) * 2 ^ (1 - (r.bias : Int) - r.fb)
    else ((2 ^ r.fb + c % 2 ^ r.fb : Nat) : Rat) * 2 ^ ((c / 2 ^ r.fb : Nat) - (r.bias : Int) - r.fb)

/-- R253: a mode that rounds a value of sign `neg` towards zero. -/
def towardsZero (mode : Nat) (neg : Bool) : Bool := mode == 1 || (mode == 2 && neg) || (mode == 3 && !neg)

/-- R253, R254: the magnitude `q` of a value of sign `neg` rounds above the largest finite one. -/
def FmtRow.over (r : FmtRow) (mode : Nat) (neg : Bool) (q : Rat) : Prop :=
  if mode = 0 then (if r.top % 2 = 1 then r.max + r.ulp / 2 ≤ q else r.max + r.ulp / 2 < q)
  else if mode = 4 then r.max + r.ulp / 2 ≤ q
  else if towardsZero mode neg then r.max + r.ulp ≤ q
  else r.max < q

/-- R253: the magnitude `q` of a value of sign `neg` rounds to `v`, which encoding `c` holds. -/
def FmtRow.rounds (r : FmtRow) (mode : Nat) (neg : Bool) (q : Rat) (c : Nat) (v : Rat) : Prop :=
  let dist := fun (u : Rat) => if q ≤ u then u - q else q - u
  r.holds c v ∧ ∀ c' u, r.holds c' u →
    if mode = 0 then dist v < dist u ∨ u = v ∨ (dist v = dist u ∧ c % 2 = 0)
    else if mode = 4 then dist v < dist u ∨ u = v ∨ (dist v = dist u ∧ u < v)
    else if towardsZero mode neg then v ≤ q ∧ (u ≤ q → u ≤ v)
    else q ≤ v ∧ (q ≤ u → v ≤ u)

/-- R295, R299, R345, R351-R360: the commands of the engines: the instruction, what it hands over, and what step 4 makes of a
descriptor. -/
def engineForms (s : State) (a k : BitVec 6) (b : BitVec 4) (q e n : BitVec 1) (sc : BitVec 2) (z : BitVec 5) :
    List (Instr × CmdWord × (List Word → Option CmdSpec)) :=
  let rung := s.t.rungEntry
  let tiles := s.t.type.zslots
  let base : CmdWord := { kind := .tcopy, a, bar := b, acq := q, rel := e, scope := sc, nb := n }
  let mat := fun (d : List Word) => do
    let sh ← matShape d rung
    if matOk d sh z.toNat tiles then
      some { shape := sh, reads := [z.toNat], foots := matFoots d sh
             aligns := aligned (rungFields sh).1 (dword d 0) (field (dword d 4) 0 32) ++
               aligned (rungFields sh).2.1 (dword d 1) (field (dword d 4) 32 32) }
    else none
  let gather := fun (d : List Word) => (gatherPlan d).map fun p =>
    { dests := [p.dst], foots := p.foots
      aligns := [(p.table, elemAlign p.sf), (p.table + BitVec.ofNat 64 p.tst, elemAlign p.sf), (p.dst, elemAlign p.df),
        (p.dst + BitVec.ofNat 64 p.dstr, elemAlign p.df), (p.index, p.idx)] }
  [(.tcopy a b q e sc n, base, copySpec rung false false),
   (.tcopyC a k b q e sc n, { base with kind := .tcopyC, slice := (s.g.getK k).toNat }, copySpec rung false true),
   (.rqt a b q e sc n, { base with kind := .rqt }, copySpec rung true false),
   (.tgath a b q e sc n, { base with kind := .tgath }, gather),
   (.mma a b q e sc n z, { base with kind := .mma, slot := z.toNat }, mat),
   (.tload a b q sc n z, { base with kind := .tload, rel := 0, slot := z.toNat }, tileSpec z.toNat tiles false),
   (.tstore a b e sc n z, { base with kind := .tstore, acq := 0, slot := z.toNat }, tileSpec z.toNat tiles true)]

/-- Command `c` of an engine of `core`, accepted without a region, without a barrier and next to run its last block; nothing
of it has been read ahead, and its group has replaced no byte (R182). -/
structure LastBlock (s : State) (core : Nat) (c : Cmd) : Prop where
  /-- It stands once in its queue. -/
  found : ((s.core core).queue c.kind.onMatrix).filter (·.id == c.id) = [c]
  /-- It may run. -/
  runs : s.mayRun core c = true
  /-- One block is left. -/
  last : c.done + 1 = c.blocks
  /-- No barrier. -/
  bar : c.bar = none
  /-- No region. -/
  region : c.region = none
  /-- Nothing is left of earlier blocks. -/
  fresh : c.held = [] ∧ c.fetched = [] ∧ c.carry = [] ∧ c.row = none ∧ c.opA = [] ∧ (c.done = 0 → c.bytes = 0)
  /-- No byte has been replaced. -/
  past : (s.group c.issuer).past = [] ∧ (s.group c.issuer).behind = []
  /-- The whole block runs at one point. -/
  limit : s.limit = none

/-- Command `c` reads the `n` bytes from `a` on at the locations from `loc` on, and its checks leave the state as it is. -/
def ReadsFrom (s : State) (c : Cmd) (a : Word) (n loc : Nat) : Prop :=
  ∀ i, i < n → ∃ x, s.engineCheck c (plus a i) .read = .ok (x, s) ∧ x.loc = loc + i

/-- Command `c` writes the `n` bytes from `a` on at the locations from `loc` on, and its checks leave the state as it is. -/
def WritesTo (s : State) (c : Cmd) (a : Word) (n loc : Nat) : Prop :=
  ∀ i, i < n → ∃ x, s.engineCheck c (plus a i) .write = .ok (x, s) ∧ x.loc = loc + i ∧ s.spadHeld c.team (loc + i) = false

end Sys2Proof.Machine
end

