-- ==== Sys2Proof/Certificates/Slice0/Obligations.lean ====
section
/-! DEFINITION. Sys2Proof/Certificates/Slice0/Obligations.lean: the statements.  Each docstring names the rules of spec/
that the statement formalises. -/

section Slice0

open Sys2Proof Sys2Proof.Machine


/-! ## The scalar machine of the control stream (R318-R344) -/

/-- R320. -/
def Obligations.KaluResults : Prop :=
  (∀ (s : State) (d a b : BitVec 6),
    let x := s.g.getK a
    let y := s.g.getK b
    let n := y.toNat % 64
    SetsK (.kaluAdd d a b) s d (BitVec.ofNat 64 (x.toNat + y.toNat)) ∧
    SetsK (.kaluSub d a b) s d (BitVec.ofInt 64 ((x.toNat : Int) - y.toNat)) ∧
    SetsK (.kaluMul d a b) s d (BitVec.ofNat 64 (x.toNat * y.toNat)) ∧
    SetsK (.kaluMulh d a b) s d ((x.signExtend 128 * y.signExtend 128).extractLsb' 64 64) ∧
    SetsK (.kaluMulhu d a b) s d ((x.setWidth 128 * y.setWidth 128).extractLsb' 64 64) ∧
    SetsK (.kaluAnd d a b) s d (x &&& y) ∧
    SetsK (.kaluOr d a b) s d (x ||| y) ∧
    SetsK (.kaluXor d a b) s d (x ^^^ y) ∧
    SetsK (.kaluAndn d a b) s d (x &&& ~~~y) ∧
    SetsK (.kaluShl d a b) s d (BitVec.ofNat 64 (x.toNat * 2 ^ n)) ∧
    SetsK (.kaluShr d a b) s d (BitVec.ofNat 64 (x.toNat / 2 ^ n)) ∧
    SetsK (.kaluSra d a b) s d (BitVec.ofInt 64 (x.toInt / 2 ^ n)) ∧
    SetsK (.kaluMin d a b) s d (if x.toInt ≤ y.toInt then x else y) ∧
    SetsK (.kaluMax d a b) s d (if x.toInt ≤ y.toInt then y else x) ∧
    SetsK (.kaluMinu d a b) s d (if x.toNat ≤ y.toNat then x else y) ∧
    SetsK (.kaluMaxu d a b) s d (if x.toNat ≤ y.toNat then y else x) ∧
    (∃ z, z ≤ 64 ∧ (∀ i, 64 - z ≤ i → i < 64 → bit x i = false) ∧ (z < 64 → bit x (63 - z) = true) ∧
      SetsK (.kaluClz d a) s d (BitVec.ofNat 64 z)) ∧
    SetsK (.kaluPopc d a) s d (BitVec.ofNat 64 ((List.range 64).filter fun i => bit x i).length)) ∧
  (decodeTableWord 32 0x04304200 = some (.kaluAdd 3 1 2) ∧ decodeTableWord 32 0x04304212 = some (.kaluSra 3 1 2)) ∧
  ∀ w : Word32, w.extractLsb' 26 6 = 0x01#6 →
    ((fieldFn w).toNat ∉ [0x00, 0x01, 0x02, 0x03, 0x04, 0x08, 0x09, 0x0A, 0x0B, 0x10, 0x11, 0x12, 0x18, 0x19, 0x1A, 0x1B,
        0x20, 0x21] ∨
      ((fieldFn w).toNat ∈ [0x20, 0x21] ∧ fieldB w ≠ 0)) →
    IllegalControl w

/-- R321.  R322. -/
def Obligations.ImmediateResults : Prop :=
  ((∀ (s : State) (d a n : BitVec 6) (i : BitVec 14),
    let x := s.g.getK a
    SetsK (.addi d a i) s d (BitVec.ofInt 64 (x.toInt + i.toInt)) ∧
    SetsK (.andi d a i) s d (x &&& BitVec.ofNat 64 i.toNat) ∧
    SetsK (.ori d a i) s d (x ||| BitVec.ofNat 64 i.toNat) ∧
    SetsK (.xori d a i) s d (x ^^^ BitVec.ofNat 64 i.toNat) ∧
    SetsK (.shli d a n) s d (BitVec.ofNat 64 (x.toNat * 2 ^ n.toNat)) ∧
    SetsK (.shri d a n) s d (BitVec.ofNat 64 (x.toNat / 2 ^ n.toNat)) ∧
    SetsK (.srai d a n) s d (BitVec.ofInt 64 (x.toInt / 2 ^ n.toNat))) ∧
  ∀ w : Word32, w.extractLsb' 26 6 = 0x06#6 → (w.extractLsb' 12 2 = 3#2 ∨ w.extractLsb' 6 6 ≠ 0#6) → IllegalControl w) ∧
  (∀ (s : State) (d : BitVec 6) (i : BitVec 20),
    SetsK (.li d i) s d (BitVec.ofInt 64 i.toInt) ∧
    SetsK (.lis d i) s d (BitVec.ofNat 64 ((s.g.getK d).toNat * 2 ^ 20 + i.toNat)) ∧
    Gives (.lis 0 i) s fun t => t.g.k = s.g.k)

/-- R323.  R324. -/
def Obligations.CompareAndPredicateResults : Prop :=
  ((∀ (s : State) (c p : BitVec 3) (a b : BitVec 6) (i : BitVec 14),
    SetsC (.cmp c p a b) s p (Compares c (s.g.getK a) (s.g.getK b)) ∧
    SetsC (.cmpi c p a i) s p (Compares c (s.g.getK a) (BitVec.ofInt 64 i.toInt))) ∧
  (∀ w : Word32, w.extractLsb' 26 6 = 0x09#6 → fieldFn w ≠ 0 → IllegalControl w) ∧
  decodeTableWord 32 0x2520C400 = some (.cmp 2 2 3 4)) ∧
  ((∀ (s : State) (d a b : BitVec 3) (kd ka kb : BitVec 6),
    SetsC (.pand d a b) s d (s.g.getC a = true ∧ s.g.getC b = true) ∧
    SetsC (.por d a b) s d (s.g.getC a = true ∨ s.g.getC b = true) ∧
    SetsC (.pnot d a) s d (s.g.getC a = false) ∧
    SetsK (.sel kd ka kb d) s kd (if s.g.getC d = true then s.g.getK ka else s.g.getK kb)) ∧
  ∀ w : Word32, w.extractLsb' 26 6 = 0x0F#6 →
    (4 ≤ (w.extractLsb' 5 3).toNat ∨ w.extractLsb' 3 2 ≠ 0#2 ∨
      (w.extractLsb' 5 3 ≠ 3#3 ∧ (w.extractLsb' 0 3 ≠ 0#3 ∨ w.extractLsb' 23 3 ≠ 0#3 ∨ w.extractLsb' 17 3 ≠ 0#3 ∨
        w.extractLsb' 11 3 ≠ 0#3)) ∨
      (w.extractLsb' 5 3 = 2#3 ∧ fieldB w ≠ 0)) →
    IllegalControl w)

/-- R148, R165, R316, R325: branches and calls, and the fetch from an address with bits above the virtual address,
which faults with BAD_WINDOW.  R272, R326: INFO of the MISALIGNED of a jump is 0 (log 16, DEDUCED).  R327. -/
def Obligations.ControlTransferResults : Prop :=
  ((∀ (s : State) (p : BitVec 3) (o : BitVec 19),
    let A := s.g.cpc
    let target := BitVec.ofInt 64 (A.toNat + 4 * o.toInt)
    let goes := fun (i : Instr) (pc : Word) => Gives i s fun t => Became s t (s.g.atPc pc)
    let links := fun (i : Instr) => Gives i s fun t => WroteK s t 62 (A + 4) target
    goes (.branch o) target ∧ links (.call o) ∧
    (if s.g.getC p = true
      then goes (.branchT p o) target ∧ goes (.branchF p o) (A + 4) ∧ links (.callT p o) ∧ goes (.callF p o) (A + 4)
      else goes (.branchF p o) target ∧ goes (.branchT p o) (A + 4) ∧ links (.callF p o) ∧ goes (.callT p o) (A + 4))) ∧
  (∀ w : Word32, w.extractLsb' 26 6 = 0x0B#6 ∨ w.extractLsb' 26 6 = 0x0C#6 →
    (3 ≤ (w.extractLsb' 22 4).toNat ∨ (w.extractLsb' 22 4 = 0#4 ∧ w.extractLsb' 19 3 ≠ 0#3)) → IllegalControl w) ∧
  ∀ (s : State) (a : Word), 2 ^ 57 ≤ a.toNat → s.fetch32 a = .error (some causeBadWindow)) ∧
  ((∀ (s : State) (a : BitVec 6),
    let v := s.g.getK a
    if v.toNat % 4 = 0 then
      (Gives (.jr a) s fun t => Became s t (s.g.atPc v)) ∧ (Gives (.jrL a) s fun t => WroteK s t 62 (s.g.cpc + 4) v)
    else
      (Gives (.jr a) s fun t => Faulted s t causeMisaligned 0 v 0) ∧
      (Gives (.jrL a) s fun t => Faulted s t causeMisaligned 0 v 0)) ∧
  ∀ w : Word32, w.extractLsb' 26 6 = 0x0D#6 → (fieldD w ≠ 0 ∨ fieldB w ≠ 0 ∨ 2 ≤ (fieldFn w).toNat) → IllegalControl w) ∧
  ((∀ (s : State) (d : BitVec 6) (o : BitVec 14), d ≠ 0 →
    let v := BitVec.ofInt 64 ((s.g.getK d).toNat - 1)
    Gives (.loop d o) s fun t =>
      WroteK s t d v (if v ≠ 0 then BitVec.ofInt 64 (s.g.cpc.toNat + 4 * o.toInt) else s.g.cpc + 4)) ∧
  ∀ w : Word32, w.extractLsb' 26 6 = 0x0E#6 → (fieldD w = 0 ∨ fieldA w ≠ 0) → IllegalControl w)

/-- R126, R144, R334, R335, R336. -/
def Obligations.LaneInterfaceResults : Prop :=
  ∀ (s : State) (a d : BitVec 6) (n : BitVec 3) (o : BitVec 17), s.regionHeld = false →
    let g := s.g
    let b : LaneBlock := { start := o, args := (List.range (n.toNat + 1)).map fun j => g.getK (a + BitVec.ofNat 6 j), fmt := g.fmt }
    (g.inHandler = false → g.lq.length < 8 →
      Gives (.lrun a n o) s fun t => Became s t { g.nextWord with lq := g.lq ++ [b] }) ∧
    (g.inHandler = false → 8 ≤ g.lq.length → Waits (.lrun a n o) s .cqWait) ∧
    (g.inHandler = true → g.handlerBlock = none →
      Gives (.lrun a n o) s fun t => Became s t { g.nextWord with handlerBlock := some b }) ∧
    (g.inHandler = true → g.handlerBlock ≠ none → Waits (.lrun a n o) s .cqWait) ∧
    (∀ w q, g.cq = w :: q →
      Gives (.cpop d) s fun t => Became s t (({ g with cq := q }.setK d w).atPc (g.cpc + 4)) ∧ t.g.cq = q ∧
        t.g.getK d = if d = 0 then 0 else w) ∧
    (g.cq = [] → g.lq = [] → g.running = false → g.handlerBlock = none →
      Gives (.cpop d) s fun t => Faulted s t causeCqStarve 0 0 0) ∧
    (g.cq = [] → (g.running = true ∨ g.handlerBlock ≠ none ∨ g.lq ≠ []) → Waits (.cpop d) s .cqWait) ∧
    (g.inHandler = false → g.lq = [] → g.running = false → Gives .lsync s fun t => Became s t g.nextWord) ∧
    (g.inHandler = true → g.handlerBlock = none → g.running = false → Gives .lsync s fun t => Became s t g.nextWord) ∧
    (g.inHandler = false → (g.running = true ∨ g.lq ≠ []) → Waits .lsync s .cqWait) ∧
    (g.inHandler = true → (g.running = true ∨ g.handlerBlock ≠ none) → Waits .lsync s .cqWait)

/-- R317, R337, R338: SREAD of the registers that a running group reads without a region, a transaction or an engine
command, and the rest through the registers that hold them. -/
def Obligations.SpecialRegisterResults : Prop :=
  ∀ (s : State) (a d : BitVec 6),
    let g := s.g
    let v := g.getK a
    (v.toNat % 8 ≤ 4 →
      Gives (.setfmt a) s fun t => Became s t { g.nextWord with fmt := BitVec.ofNat 32 (v.toNat % 2 ^ 12) }) ∧
    (5 ≤ v.toNat % 8 → Gives (.setfmt a) s fun t => Faulted s t causeIllegalOp 0 0 0) ∧
    SetsK (.getfmt d) s d (BitVec.ofNat 64 g.fmt.toNat) ∧
    (∀ r x, (r, x) ∈ [
        (0x00, BitVec.ofNat 64 (s.t.core * 64 + g.port * 16 + g.slot)), (0x01, BitVec.ofNat 64 g.idx),
        (0x02, BitVec.ofNat 64 s.t.member), (0x03, BitVec.ofNat 64 s.t.core), (0x04, BitVec.ofNat 64 (s.t.core / 4)),
        (0x05, BitVec.ofNat 64 (s.t.core / 64)), (0x06, BitVec.ofNat 64 s.t.unit), (0x07, s.t.param),
        (0x0D, s.pkg.ns), (0x10, g.trapV), (0x11, g.trapPc), (0x12, g.trapLanes), (0x14, g.trapInfo0), (0x15, g.trapInfo1),
        (0x16, g.trapInfo2), (0x17, g.trapInfo3), (0x18, g.tx.cause)] → SetsK (.sread d r) s d x) ∧
    (∀ r : BitVec 8, Instr.wf (.sread d r) = true → ∃ x, SetsK (.sread d r) s d x) ∧
    (s.regionHeld = false → Gives (.swrite a 0x15) s fun t => Became s t { g.nextWord with trapInfo1 := v }) ∧
    (∀ r : BitVec 8, Instr.wf (.swrite a r) = true ↔ r = 0x15)

/-- R339: a CWAIT that issues completes where its counter is at or below ka, and otherwise waits with that
threshold, whatever becomes of ka and whatever else it has to wait for meanwhile.  R340. -/
def Obligations.CwaitAndAssertResults : Prop :=
  (∀ (s : State) (a : BitVec 6) (c : BitVec 2), c ≠ 3 →
    let g := s.g
    let n := if c = 0 then g.gl.length else if c = 1 then g.sp.length else g.st.length
    let w : Wait := if c = 0 then .cwaitGl else if c = 1 then .cwaitSp else .cwaitSt
    (g.threshold = none → n ≤ (g.getK a).toNat →
      Gives (.cwait a c) s fun t => Became s t { g.nextWord with threshold := none }) ∧
    (g.threshold = none → (g.getK a).toNat < n →
      Gives (.cwait a c) s fun t => Became s t { g with cwait := some w, threshold := some (g.getK a) }) ∧
    (∀ v : Word, g.threshold = some v → n ≤ v.toNat →
      Gives (.cwait a c) s fun t => Became s t { g.nextWord with threshold := none }) ∧
    (∀ v : Word, g.threshold = some v → v.toNat < n → Gives (.cwait a c) s fun t => Became s t { g with cwait := some w })) ∧
  ((∀ (s : State) (a : BitVec 6) (n : BitVec 1) (p : BitVec 3), s.regionHeld = false →
    if (s.g.getC p = true ∧ n = 1) ∨ (s.g.getC p = false ∧ n = 0)
      then Gives (.assert a n p) s fun t => Faulted s t causeAssert 0 (s.g.getK a) 32
      else Gives (.assert a n p) s fun t => Became s t s.g.nextWord) ∧
  ∀ w : Word32, w.extractLsb' 26 6 = 0x30#6 → (fieldD w ≠ 0 ∨ fieldB w ≠ 0 ∨ w.extractLsb' 4 4 ≠ 0#4) → IllegalControl w)

/-- R55, R216, R275, R341: SCALL parks the stream with its arguments, where the control PC stays at it until the
wake, or waits for the team's regions, or faults.  R144, R273, R276, R286, R342: BRK takes its trap, faults with
TRAP_NEST in the handler, or stops the group under a debugger, with its record unless a step is to write one;
that of a group that a debug stop has marked joins this stop, as its one record (log 47).  R143, R343: TRET
restores the trap slot and resumes at TRAPINFO1; it waits for the handler block, and is illegal outside the
handler and with a misaligned TRAPINFO1. -/
def Obligations.CallAndTrapResults : Prop :=
  (∀ (s : State) (d a : BitVec 6) (c : BitVec 14), Instr.wf (.scall d a c) = true →
    let ring := field s.p.page.cqCtl 0 5
    let g := s.g
    (s.regionHeld = true → Waits (.scall d a c) s .regionCommit) ∧
    (¬s.plain → s.regionHeld = false → Gives (.scall d a c) s fun t => Faulted s t causeRegionEffect 0 0 0) ∧
    (s.plain → s.regionHeld = false → ¬(6 ≤ ring ∧ ring ≤ 16) →
      Gives (.scall d a c) s fun t => Faulted s t causeNoCallq 0 0 0) ∧
    (s.plain → s.regionHeld = false → 6 ≤ ring ∧ ring ≤ 16 →
      Gives (.scall d a c) s fun t => Became s t { g with
        park := some (.scall d c g.cpc [g.getK a, g.getK (a + 1), g.getK (a + 2), g.getK (a + 3)] g.seq)
        inCall := true, cwait := none })) ∧
  (∀ (s : State) (c : BitVec 20), s.regionHeld = false →
    (bit s.p.dbg.ctl 0 = false → s.g.inHandler = false → s.g.tx.active = 0 →
      Gives (.brk c) s fun t => Trapped s t s.g.nextWord
        { cause := causeBrk, pc := s.g.cpc, lanes := 0, detail := BitVec.ofNat 32 c.toNat, info2 := 0, control := true
          tx := false }) ∧
    (bit s.p.dbg.ctl 0 = false → s.g.inHandler = true →
      Gives (.brk c) s fun t => Faulted s t causeTrapNest 0 0 (BitVec.ofNat 64 causeBrk.toNat)) ∧
    (bit s.p.dbg.ctl 0 = true → s.g.stepping ≠ some true → s.g.asked = false →
      Gives (.brk c) s fun t => t.g = { s.g.nextWord with stop := .debug } ∧ (∀ k, k ≠ s.actor → t.group k = s.group k) ∧
        SameBytes s t ∧ t.p.dbg.stops = s.p.dbg.stops ∧
        ∃ j r, t.p.dbg.dumps = s.p.dbg.dumps ++ [j] ∧ j.event = 1 ∧ j.records = [r] ∧ r.kind = 4) ∧
    (∀ x, bit s.p.dbg.ctl 0 = true → s.g.stepping ≠ some true → s.g.asked = true →
      s.p.dbg.stops.find? (·.groups.contains s.actor) = some x →
      Gives (.brk c) s fun t => t.g = { s.g.nextWord with stop := .debug, asked := false } ∧
        (∀ k, k ≠ s.actor → t.group k = s.group k) ∧ SameBytes s t ∧ t.p.dbg.dumps = s.p.dbg.dumps ∧
        ∃ r, r.kind = 4 ∧
          { x with groups := x.groups.filter (· != s.actor), records := x.records ++ [r] } ∈ t.p.dbg.stops) ∧
    (bit s.p.dbg.ctl 0 = true → s.g.stepping = some true →
      Gives (.brk c) s fun t => Became s t { s.g.nextWord with stop := .debug, asked := false })) ∧
  (∀ (s : State), s.regionHeld = false →
    let g := s.g
    (∀ x, g.inHandler = true → g.trapSlot = some x → g.handlerBlock = none → g.running = false → g.trapInfo1.toNat % 4 = 0 →
      g.heldTrap = none →
      Gives .tret s fun t => Became s t { g with
        running := x.running, lpc := x.lpc, cur := x.cur, stack := x.stack, skip := x.skip, lfmt := x.lfmt, l := x.l, a := x.a
        inHandler := false, trapSlot := none, cpc := g.trapInfo1, cwait := none }) ∧
    (∀ x, g.inHandler = true → g.trapSlot = some x → (g.handlerBlock ≠ none ∨ g.running = true) → Waits .tret s .cqWait) ∧
    (∀ x, g.inHandler = true → g.trapSlot = some x → g.handlerBlock = none → g.running = false → g.trapInfo1.toNat % 4 ≠ 0 →
      Gives .tret s fun t => Faulted s t causeIllegalOp 0 0 0) ∧
    (g.inHandler = false → Gives .tret s fun t => Faulted s t causeIllegalOp 0 0 0))

/-- R200, R216, R220, R328, R344: NOP advances; END stops the control stream of a team without a speculative region in
flight, and one in the handler gives up the block set aside and the lane queue; an END of the last group that has not
closed the open region, which another has closed by PEND.A, makes it pending. -/
def Obligations.NopAndEndResults : Prop :=
  ∀ (s : State),
    (Gives .nop s fun t => Became s t s.g.nextWord) ∧
    (s.waitingAt = none → s.regionHeld = false → s.plain → s.commandsOf s.g.team = [] →
      (∀ k, k ∈ s.partners s.g.team → k ≠ s.actor → (s.group k).closed ≠ some false) →
      (s.g.inHandler = false → Gives .ctlEnd s fun t => Became s t { s.g with ended := true, cwait := none }) ∧
      (s.g.inHandler = true → Gives .ctlEnd s fun t => Became s t { s.g with
        ended := true, cwait := none, trapSlot := none, lq := [], heldTrap := none })) ∧
    (∀ j, s.waitingAt = none → s.regionHeld = false → s.plain → s.commandsOf s.g.team = [] → s.g.inHandler = false →
      j ∈ s.partners s.g.team → j ≠ s.actor → (s.group j).closed = some false →
      (∀ k, k ∈ s.partners s.g.team → k ≠ s.actor → (s.group k).closed ≠ none) →
      Gives .ctlEnd s fun t => t.g.ended = true ∧ (t.team s.g.team).pending = s.t.openRegion ∧
        (t.team s.g.team).openRegion = none ∧ (t.group j).closed = none ∧ SameBytes s t) ∧
    (s.waitingAt = none → s.regionHeld = false → ¬s.plain →
      Gives .ctlEnd s fun t => Faulted s t causeRegionNest 0 0 0) ∧
    (s.regionHeld = true → Waits .ctlEnd s .regionCommit) ∧
    (s.t.openRegion = none → s.t.pending ≠ none → Waits .ctlEnd s .regionCommit) ∧
    (∀ x, s.waitingAt = some x → s.regionHeld = false → Gives .ctlEnd s fun t => Faulted s t causeRegionMismatch 0 x 0)

/-- R192-R197, R220, R362: PBEGIN of the last partner opens the region that the descriptor describes, with a
checkpoint of the acting group, and starts it at rung 0, or, where the Locus table has an entry, at the lower of
its rung and the last one of the ladder; the address of the region status word, where there is one, is
translated now, and one that cannot be written faults with INFO 32 (log 16, DEDUCED); it reads the descriptor
once, for all partners (log 14, DEDUCED); a region that cannot take its checkpoint starts non-speculatively at
the last rung, behind a pending region once that has committed (log 19, DEDUCED).  R200, R216, R362: where
PBEGIN faults or waits.  R144, R216: the stores, atomics, waits, barriers, lane-stream, engine, slot and task
instructions, SCALL, BRK, TRET, SWRITE, ASSERT, END and PABORT wait while a region of the team is pending and
none is open. -/
def Obligations.PbeginResults : Prop :=
  (∀ (s u v : State) (a : BitVec 6) (d : List Word) (rsw : Option Target),
    let g := s.g
    let addr := if g.getK a = 0 then s.t.type.ldef else g.getK a
    let w := s.setG { g with atPbegin := some addr }
    s.mid = [] → s.limit = none → g.acqHold = none →
    g.inHandler = false → g.tx.depth = 0 → s.t.openRegion = none → addr ≠ 0 → addr.toNat % 64 = 0 →
    (∀ x, s.waitingAt = some x → x = addr) → g.laneIdle = true → g.gl = [] → g.sp = [] → w.allAtPbegin = true →
    s.actor ∈ s.partners g.team → s.t.type.groups ≤ 32 → w.readBlocks addr 4 [] = .words d u → regionDescOk d = true →
    ((dword d 6 = 0 ∧ rsw = none ∧ v = u) ∨
      (dword d 6 ≠ 0 ∧ ∃ x marks skip starve, rsw = some x ∧ v = u.applyMarks marks skip starve ∧
        u.check u.g.team (dword d 6) 8 .write false = .ok x marks skip starve) →
      let waits := !v.ckptRoom && s.t.pending.isSome
      Gives (.pbegin a) s fun t =>
        t.g.cpc = g.cpc + 4 ∧ t.g.atPbegin = none ∧ t.g.k = g.k ∧ t.g.restarting = waits ∧ SameBytes v t ∧
        t.t.restart = (if waits then some true else s.t.restart) ∧ t.t.pending = s.t.pending ∧
        ∃ r, t.t.openRegion = some r ∧ r.addr = addr ∧ r.desc = d ∧ r.writes = [] ∧ r.rung = r.start ∧ r.rung < descNrung d ∧
          r.spec = v.ckptRoom ∧ r.rsw = rsw ∧
          (r.spec = true → v.p.locusFind (v.keyOf v.t (dword d 0)) = none → r.rung = 0 ∧ r.hit = false) ∧
          (∀ k e, r.spec = true → v.p.locusFind (v.keyOf v.t (dword d 0)) = some (k, e) →
            r.rung = min e.rung.toNat (descNrung d - 1) ∧ r.hit = true) ∧
          (r.spec = false → r.rung = descNrung d - 1) ∧
          SMap.find? r.ckpt (s.actor % 32) = some
            { k := g.k, c := g.c, fmt := g.fmt, cpc := g.cpc + 4, past := g.past, behind := g.behind }) ∧
    (∀ c, dword d 6 ≠ 0 → u.check u.g.team (dword d 6) 8 .write false = .fault c →
      Gives (.pbegin a) s fun t => Faulted u t c 0 (dword d 6) 32)) ∧
  (∀ (s : State) (a : BitVec 6),
    (s.g.inHandler = true → Gives (.pbegin a) s fun t => Faulted s t causeRegionEffect 0 0 0) ∧
    (s.g.tx.depth ≠ 0 → Gives (.pbegin a) s fun t => Faulted s t causeRegionEffect 0 0 0) ∧
    (∀ r, s.g.inHandler = false → s.g.tx.depth = 0 → s.t.openRegion = some r → s.g.closed = none →
      Gives (.pbegin a) s fun t => Faulted s t causeRegionNest 0 0 0) ∧
    (∀ r x, s.g.inHandler = false → s.g.tx.depth = 0 → s.t.openRegion = some r → s.g.closed = some x →
      Waits (.pbegin a) s .regionCommit) ∧
    (s.g.inHandler = false → s.g.tx.depth = 0 → s.t.openRegion = none →
      let addr := if s.g.getK a = 0 then s.t.type.ldef else s.g.getK a
      (addr = 0 → Gives (.pbegin a) s fun t => Faulted s t causeIllegalOp 0 0 0) ∧
      (∀ x, addr ≠ 0 → s.waitingAt = some x → x ≠ addr →
        Gives (.pbegin a) s fun t => Faulted s t causeRegionMismatch 0 x 0) ∧
      (addr ≠ 0 → (∀ x, s.waitingAt = some x → x = addr) → s.g.laneIdle = false →
        Gives (.pbegin a) s fun t => Became s t { s.g with atPbegin := some addr, cwait := some .cqWait }))) ∧
  (∀ (s : State) (a b d k n6 : BitVec 6) (n p : BitVec 3) (z sc : BitVec 2) (o : BitVec 10) (o17 : BitVec 17) (bar op : BitVec 4)
    (code : BitVec 20) (call : BitVec 14) (y q e nb : BitVec 1) (zs : BitVec 5) (r ty code8 : BitVec 8),
    s.t.pending ≠ none → s.t.openRegion = none → bar.toNat < s.t.type.bars → zs.toNat < s.t.type.zslots →
    a.getLsbD 0 = false →
    ∀ i, i ∈ [.stk d a z o, .amok d a y sc op q e, .cask d a z sc n6 q e, .waitm d a y o, .lrun a n o17, .cpop d, .lsync,
        .scall d a call, .brk code, .tret, .swrite a r, .assert a y p, .ctlEnd, .pabort, .binit a bar, .bexpect a bar,
        .barrive bar, .binv bar, .bwait a bar p, .btest a bar p, .tzero zs, .tstat d y zs, .tspawn a b p ty, .tdec a b,
        .rclaim a, .tfin code8] ++ (engineForms s a k bar q e nb sc zs).map (·.1) →
      Waits i s .regionCommit)

/-! ## Memory, atomics and waits of the control stream (R329-R333) and barriers (R140-R142, R350) -/

/-- R139, R188, R330: LDK fixes its value at issue and joins its counter; the register takes it when the load
completes. On the non-coherent window the value is read later.  R59, R137, R139, R163, R188: LOAD_COMPLETE lands
the oldest load of its counter, what it still had to read included; one that counts in GL and SP lands with
whichever completes first; STORE_ACK retires the oldest store, whose posted writes count as sent; a posted store
reaches the host in a turn of its own; WALK_COMPLETE ends the wait for a walk.  When a value of the non-coherent
window is read, and that a store is performed after its STORE_ACK, is the model's choice (log 71); so is when
and with which INFO HOST_ABORT ends a read that a failed host link cuts off (R62, log 108).  R110, R188, R203,
R330: STK writes the low bytes of kd at its address and nothing else: to memory, in an open speculative region
to the team's own view, or as a posted write on its way to the non-coherent window; a write to memory wakes the
groups that watch its line.  R329: the checks of LDK and STK stop them with the failing cause and the address,
before any effect. -/
def Obligations.ControlAccessResults : Prop :=
  (∀ (s : State) (d a : BitVec 6) (z : BitVec 2) (x : BitVec 1) (o : BitVec 10) (tgt : Target) (marks : List (Nat × Word))
    (skip starve : Nat),
    let g := s.g
    let n : Nat := 2 ^ z.toNat
    let addr := BitVec.ofInt 64 ((g.getK a).toNat + o.toInt * n)
    g.memHold [if s.inWindow addr then g.sp else g.gl] = none →
    s.check g.team addr n .read false = .ok tgt marks skip starve → s.lockWait tgt.loc n false = false →
    let u := s.afterCheck tgt marks skip starve false
    let raw := leNat (u.viewBytes g.team tgt.loc n)
    let v := if x = 1 then BitVec.ofInt 64 (BitVec.ofNat (8 * n) raw).toInt else BitVec.ofNat 64 raw
    let fl : Flight :=
      if tgt.isNonCoherent then
        { late := [{ loc := tgt.loc, len := n, dest := .k d.toNat (x == 1), addr, lane := 32 }], nonCoherent := true
          seq := g.seq }
      else { land := [.k d.toNat v], seq := g.seq }
    Gives (.ldk d a z x o) s fun t =>
      SameButWake { g.nextWord with
        gl := if tgt.isWindow then g.gl else g.gl ++ [fl], sp := if tgt.isWindow then g.sp ++ [fl] else g.sp
        seq := g.seq + 1 } t.g ∧
      OthersWoken s t (marks.map (·.1)) ∧ SameBytes u t) ∧
  (∀ (s : State) (k : Nat) (f : Flight) (rest : List Flight), s.present k = true →
    let g := s.group k
    let only := fun (t : State) => t = { s with groups := t.groups } ∧ (∀ j, j ≠ k → t.group j = s.group j) ∧ SameBytes s t
    (f.late = [] → g.gl = f :: rest →
      Gives (.loadComplete k 0) s fun t => only t ∧ t.group k = { g with gl := rest }.landAll f) ∧
    (f.late = [] → (∀ x, x ∈ g.gl → x.seq ≠ f.seq) → g.sp = f :: rest →
      Gives (.loadComplete k 1) s fun t => only t ∧ t.group k = { g with sp := rest }.landAll f) ∧
    (∀ x : Flight, g.gl = [x] → x.seq = f.seq → x.late = [] → g.sp = f :: rest →
      Gives (.loadComplete k 1) s fun t => only t ∧
        t.group k = { g with sp := rest, gl := [{ x with land := [] }] }.landAll x) ∧
    (∀ loc n d sx addr, f.late = [{ loc, len := n, dest := .k d sx, addr, lane := 32 }] → g.gl = f :: rest →
      s.pkg.hostUp = false → g.stop ≠ .halt → (s.team g.team).phase ≠ .killing →
      Gives (.loadComplete k 0) s fun t =>
        Faulted { s.mapGroup k fun g => { g with gl := rest } with actor := k } t causeHostAbort 0 addr 0) ∧
    (∀ loc n d sx addr l, f.late = [{ loc, len := n, dest := .k d sx, addr, lane := l }] → f.land = [] → d < 64 →
      g.gl = f :: rest → s.pkg.hostUp = true → (∀ x, x ∈ s.pkg.posted → x.sent = none) →
      let v := leNat (s.bytesAt loc n)
      Gives (.loadComplete k 0) s fun t => only t ∧ (t.group k).gl = rest ∧
        (t.group k).getK (BitVec.ofNat 6 d) =
          if d = 0 then 0 else if sx then BitVec.ofInt 64 (BitVec.ofNat (8 * n) v).toInt else BitVec.ofNat 64 v) ∧
    (f.late = [] → g.st = f :: rest →
      Gives (.storeAck k) s fun t => (∀ j, j ≠ k → t.group j = s.group j) ∧ t.group k = { g with st := rest } ∧
        SameBytes s t ∧ t.pkg.posted = s.pkg.posted.map fun x =>
          if x.store = some (k, f.seq) then { x with sent := some g.seq } else x) ∧
    (∀ (i : Nat) (x : Posted), s.pkg.posted[i]? = some x → x.store = some (k, f.seq) → x.irq = none → x.bytes ≠ [] →
      s.pkg.hostUp = true → (∀ y, y ∈ s.pkg.posted.take i → y.store ≠ x.store) →
      ∃ t, s.deliverTurn i = .next t ∧ t.pkg.posted = s.pkg.posted.eraseIdx i ∧ Stored s t x.loc x.bytes ∧
        ∀ j, SameButWake (s.group j) (t.group j)) ∧
    (∀ d v, f.land = [.k d v] → d < 64 → ∀ h : Group, (h.landAll f).getK (BitVec.ofNat 6 d) = if d = 0 then 0 else v) ∧
    (g.cwait = some .translate → Gives (.walkComplete k true) s fun t =>
      only t ∧ t.group k = { g with cwait := none, walking := (t.group k).walking } ∧ (t.group k).walks true = false) ∧
    (g.lwait = some .translate → Gives (.walkComplete k false) s fun t =>
      only t ∧ t.group k = { g with lwait := none, walking := (t.group k).walking } ∧ (t.group k).walks false = false)) ∧
  (∀ (s : State) (d a : BitVec 6) (z : BitVec 2) (o : BitVec 10) (tgt : Target) (marks : List (Nat × Word)) (skip starve : Nat),
    let g := s.g
    let n : Nat := 2 ^ z.toNat
    let addr := BitVec.ofInt 64 ((g.getK a).toNat + o.toInt * n)
    let bs := leBytes n ((g.getK d).toNat % 2 ^ (8 * n))
    let u := s.afterCheck tgt marks skip starve true
    let nc := tgt.isNonCoherent
    s.regionHeld = false → g.memHold [g.st] = none → s.check g.team addr n .write false = .ok tgt marks skip starve →
    u.regionForbids tgt = false → u.lineHeld tgt = false → u.lockWait tgt.loc n true = false → u.noRoom tgt.loc = false →
    Gives (.stk d a z o) s fun t =>
      SameButWake { g.nextWord with
        st := g.st ++ [{ nonCoherent := nc, seq := g.seq, region := s.writeRegion }], seq := g.seq + 1
        past := if nc then g.past else cellsAt tgt.loc (u.viewBytes g.team tgt.loc n) ++ g.past } t.g ∧
      OthersWoken s t (tgt.loc :: marks.map (·.1)) ∧ (s.plain → nc = false → Stored u t tgt.loc bs ∧ Wakes s t tgt.loc) ∧
      (¬s.plain → nc = false → SameBytes u t ∧ Versioned u t g.team tgt.loc bs) ∧
      (nc = true → SameBytes u t ∧
        t.pkg.posted = s.pkg.posted ++ [{ loc := tgt.loc, bytes := bs, store := some (s.actor, g.seq) }])) ∧
  (∀ (s : State) (d a : BitVec 6) (z : BitVec 2) (x : BitVec 1) (o : BitVec 10) (c : BitVec 8),
    let g := s.g
    let n : Nat := 2 ^ z.toNat
    let addr := BitVec.ofInt 64 ((g.getK a).toNat + o.toInt * n)
    s.regionHeld = false → g.memHold [if s.inWindow addr then g.sp else g.gl] = none → g.memHold [g.st] = none →
    (s.check g.team addr n .read false = .fault c → Gives (.ldk d a z x o) s fun t => Faulted s t c 0 addr 0) ∧
    (s.check g.team addr n .write false = .fault c → Gives (.stk d a z o) s fun t => Faulted s t c 0 addr 0) ∧
    (s.check g.team addr n .read false = .busy → Waits (.ldk d a z x o) s .translate))

/-- R60, R331, R332: AMOK and CASK read, compute and write in one step, and their old value lands like a load's; on the
non-coherent window they are a request whose AtomicOp the host performs later (log 90, DEDUCED), or refuses with
HOST_ABORT. -/
def Obligations.ControlAtomicResults : Prop :=
  ∀ (s : State) (d a kn : BitVec 6) (z1 : BitVec 1) (z : BitVec 2) (sc : BitVec 2) (op : BitVec 4) (q e : BitVec 1) (tgt : Target)
    (marks : List (Nat × Word)) (skip starve : Nat),
    let g := s.g
    let addr := g.getK a
    let nc := tgt.isNonCoherent
    let u := (s.afterCheck tgt marks skip starve true).syncFor tgt
    let fl := fun (n : Nat) (land : List Landing) (op : LateOp) (dest : LateDest) =>
      ({ land := if nc then [] else land, acq := q == 1 && tgt.isSystem, nonCoherent := nc, seq := g.seq, region := s.writeRegion
         late := if nc then [{ loc := tgt.loc, len := n, op, dest, addr, lane := 32 }] else [] } : Flight)
    let after := fun (t : State) (f : Flight) (past : List Host.Cell) =>
      SameButWake { g.nextWord with
        gl := if tgt.isWindow then g.gl else g.gl ++ [f], sp := if tgt.isWindow then g.sp ++ [f] else g.sp
        seq := g.seq + 1, past := if nc then g.past else past ++ g.past } t.g ∧
      (∀ k, SameButWake (s.group k) (u.group k)) ∧ OthersWoken u t [tgt.loc] ∧ (nc = true → SameBytes u t)
    let writes := fun (t : State) (bs : List Byte) =>
      (s.plain → nc = false → Stored u t tgt.loc bs) ∧
      (¬s.plain → nc = false → SameBytes u t ∧ Versioned u t g.team tgt.loc bs)
    let does := fun (t : State) (p : Prop) => if s.atomicFails tgt then Faulted s t causeHostAbort 0 addr 0 else p
    s.regionHeld = false → g.memHold [if s.inWindow addr then g.sp else g.gl] = none →
    u.regionForbids tgt = false → u.lineHeld tgt = false → u.noRoom tgt.loc = false →
    (∀ n, n = (if z1 = 1 then 8 else 4) → s.check g.team addr n .write (op.toNat != 0 && op.toNat != 1) = .ok tgt marks skip starve →
      u.lockWait tgt.loc n true = false →
      let bytes := u.viewBytes g.team tgt.loc n
      let old := leNat bytes
      let x := (g.getK d).toNat % 2 ^ (8 * n)
      Gives (.amok d a z1 sc op q e) s fun t => does t <|
        after t (fl n [.k d.toNat (BitVec.ofNat 64 old)] (if op = 1 then .swap x else .add x) (.k d.toNat false))
          (cellsAt tgt.loc bytes) ∧
        writes t (leBytes n (atomicOp op.toNat n old x))) ∧
    (∀ n, n = (if z = 0 then 16 else if z = 2 then 4 else 8) → s.check g.team addr n .write false = .ok tgt marks skip starve →
      u.lockWait tgt.loc n true = false →
      let bytes := u.viewBytes g.team tgt.loc n
      let old := leNat bytes
      let value := fun (r : BitVec 6) =>
        if n = 16 then (g.getK r).toNat + (g.getK (r + 1)).toNat * 2 ^ 64 else (g.getK r).toNat % 2 ^ (8 * n)
      let land := if n = 16 then [.k d.toNat (BitVec.ofNat 64 old), .k (d.toNat + 1) (BitVec.ofNat 64 (old / 2 ^ 64))]
        else [.k d.toNat (BitVec.ofNat 64 old)]
      let f := fl n land (.cas (value d) (value kn)) (if n = 16 then .kPair d.toNat else .k d.toNat false)
      (old = value d →
        Gives (.cask d a z sc kn q e) s fun t => does t <|
          after t f (cellsAt tgt.loc bytes) ∧ writes t (leBytes n (value kn))) ∧
      (old ≠ value d →
        Gives (.cask d a z sc kn q e) s fun t => does t <|
          after t f [] ∧ SameBytes u t ∧ (nc = false → Wakes u t tgt.loc)))

/-- R109, R110, R333: WAITM completes where its word differs from kd and parks otherwise; a wake, and the recheck 4 us of
physical time later, read the word again. -/
def Obligations.WaitmResults : Prop :=
  ∀ (s : State) (d a : BitVec 6) (z : BitVec 1) (o : BitVec 10) (tgt : Target) (marks : List (Nat × Word)) (skip starve : Nat),
    let g := s.g
    let n : Nat := 2 ^ (2 + z.toNat)
    let u := (s.afterCheck tgt marks skip starve false).syncRead tgt
    let sees := fun (i : Instr) (addr : Word) =>
      let v := leNat (u.viewBytes g.team tgt.loc n)
      s.check g.team addr n .read false = .ok tgt marks skip starve → s.lockWait tgt.loc n false = false →
      (v ≠ (g.getK d).toNat % 2 ^ (8 * n) →
        Gives i s fun t => t.g = ({ g with park := none, seen := [] }.stepped true).nextWord ∧ SameBytes u t) ∧
      (v = (g.getK d).toNat % 2 ^ (8 * n) →
        Gives i s fun t =>
          t.g = { g with park := some (.waitm d addr n tgt.loc false s.phys), cwait := none, walking := 0 } ∧ SameBytes u t)
    (s.regionHeld = false → g.memHold [] = none →
      sees (.waitm d a z o) (BitVec.ofInt 64 ((g.getK a).toNat + o.toInt * n))) ∧
    (∀ addr loc wake since, g.park = some (.waitm d addr n loc wake since) → g.stop = .none →
      s.t.phase = .resident →
      (wake = true → sees (.waitmWake s.actor) addr) ∧
      (since + 4000 ≤ s.phys → sees (.waitmRecheck s.actor) addr))

/-- R141, R142, R201, R350: the updates of a barrier and their faults; a flip wakes every group that waits with
predicate true, and BINV with predicate false; a BINIT for which both faults are due raises BAR_BUSY (the
model's choice, log 91).  R141, R350: BWAIT and BTEST. -/
def Obligations.BarrierResults : Prop :=
  (∀ (s : State) (a : BitVec 6) (b : BitVec 4), b.toNat < s.t.type.bars → s.regionHeld = false → s.g.atBarrier = none →
    let g := s.g
    let k := g.getK a
    let x := s.bar g.team b.toNat
    let waits := ∃ j, j ∈ s.groupsOf g.team ∧ (s.group j).atBarrier.map (·.1) = some b.toNat
    let others := fun (t : State) => ∀ j, j ≠ s.actor → t.group j = s.group j
    let misuse := fun (i : Instr) => Gives i s fun t => Faulted s t causeBarMisuse 0 0 (BitVec.ofNat 64 b.toNat)
    let busy := fun (i : Instr) => Gives i s fun t => Faulted s t causeBarBusy 0 0 (BitVec.ofNat 64 b.toNat)
    (s.pendingNames b.toNat = true → busy (.binit a b) ∧ busy (.bexpect a b) ∧ busy (.barrive b) ∧ busy (.binv b)) ∧
    (s.pendingNames b.toNat = false →
    (x.refs = 0 → ¬waits → 1 ≤ k.toNat → k.toNat ≤ 1023 →
      Gives (.binit a b) s fun t => t.g = g.nextWord ∧ others t ∧
        BarSet s t b.toNat { phase := false, valid := true, refs := 0, init := k.toNat, arrive := k.toNat, pend := 0 }) ∧
    (x.refs = 0 → ¬waits → (k.toNat < 1 ∨ 1023 < k.toNat) → misuse (.binit a b)) ∧
    ((x.refs ≠ 0 ∨ waits) → busy (.binit a b)) ∧
    (x.valid = true → x.arrive ≠ 0 → -(2 ^ 31) ≤ x.pend + k.toInt → x.pend + k.toInt < 2 ^ 31 →
      Gives (.bexpect a b) s fun t => t.g = g.nextWord ∧ others t ∧ BarSet s t b.toNat { x with pend := x.pend + k.toInt }) ∧
    (x.valid = true → (x.pend + k.toInt < -(2 ^ 31) ∨ 2 ^ 31 ≤ x.pend + k.toInt) → misuse (.bexpect a b)) ∧
    (x.valid = true → x.arrive = 0 → x.pend + k.toInt ≠ 0 → misuse (.bexpect a b)) ∧
    (x.valid = false → misuse (.bexpect a b)) ∧
    (x.valid = true → 2 ≤ x.arrive →
      Gives (.barrive b) s fun t => t.g = g.nextWord ∧ others t ∧ BarSet s t b.toNat { x with arrive := x.arrive - 1 }) ∧
    (x.valid = true → x.arrive = 1 → x.pend = 0 →
      Gives (.barrive b) s fun t => t.g = g.nextWord ∧ WokenAt s t g.team b.toNat true ∧
        BarSet s t b.toNat { x with phase := !x.phase, arrive := x.init }) ∧
    (x.valid = true → x.arrive = 1 → x.pend ≠ 0 → misuse (.barrive b)) ∧
    ((x.valid = false ∨ x.arrive = 0) → misuse (.barrive b)) ∧
    (x.refs = 0 →
      Gives (.binv b) s fun t => t.g = g.nextWord ∧ WokenAt s t g.team b.toNat false ∧
        BarSet s t b.toNat { phase := false, valid := false, refs := 0, init := 0, arrive := 0, pend := 0 }) ∧
    (x.refs ≠ 0 → busy (.binv b)))) ∧
  (∀ (s : State) (a : BitVec 6) (b : BitVec 4) (p : BitVec 3), b.toNat < s.t.type.bars → s.regionHeld = false →
    s.g.cwait = none → s.g.atBarrier = none →
    let g := s.g
    let k := bit (g.getK a) 0
    let x := s.bar g.team b.toNat
    (x.valid = true → x.phase = k →
      Gives (.bwait a b p) s fun t => Became s t { g with cwait := some .barWait, atBarrier := some (b.toNat, k, p.toNat) }) ∧
    (¬(x.valid = true ∧ x.phase = k) → SetsC (.bwait a b p) s p (x.valid = true)) ∧
    SetsC (.btest a b p) s p (x.valid = true ∧ x.phase ≠ k))

/-! ## Engines, tiles, regions and tasks (R345-R369) -/

/-- R295, R299, R345-R347, R351-R360: a command that passes the checks of acceptance joins its engine's queue with
its descriptor and its barrier, and the instruction completes.  R141, R149, R199, R200, R201, R345, R346, R354:
a command of any of the seven forms waits while its engine's queue, its team's commands or its barrier's REFS
are full; a barrier or slot that the team lacks, and a descriptor that is misaligned, unreadable or malformed,
fault before any effect, and after them the checks of steps 5 to 8, in their order.  INFO 32 with an unreadable
descriptor is the model's reading (log 16, DEDUCED), and a stride that is misaligned to its element meets step 7
(log 77). -/
def Obligations.EngineAcceptance : Prop :=
  (∀ (s u : State) (a k : BitVec 6) (b : BitVec 4) (q e : BitVec 1) (sc : BitVec 2) (n : BitVec 1) (z : BitVec 5) (i : Instr)
    (w : CmdWord) (resolve : List Word → Option CmdSpec) (d : List Word) (x : CmdSpec),
    let g := s.g
    (i, w, resolve) ∈ engineForms s a k b q e n sc z →
    s.mid = [] → s.limit = none → s.regionHeld = false → g.acqHold = none → s.engineFull w = false →
    (n = 0 → b.toNat < s.t.type.bars) → (w.kind.onMatrix = true → z.toNat < s.t.type.zslots) → (g.getK a).toNat % 64 = 0 →
    s.readBlocks (g.getK a) 4 [] = .words d u →
    resolve d = some x → (x.collective.any fun y => u.sliceBad w y.1 y.2) = false → u.cmdFault w (g.getK a) x = none →
    (x.collective.any fun y => u.tooManyCollectives y.1) = false →
    Gives i s fun t =>
      SameButWake g.nextWord t.g ∧ (∀ j, j ≠ s.actor → SameButWake (s.group j) (t.group j)) ∧ SameBytes u t ∧
      ∃ c : Cmd, (t.core s.t.core).queue w.kind.onMatrix = (s.core s.t.core).queue w.kind.onMatrix ++ [c] ∧
        c.id = s.nextCmd ∧ c.kind = w.kind ∧ c.desc = d ∧ c.addr = g.getK a ∧ c.team = g.team ∧ c.group = g.idx ∧ c.done = 0 ∧
        c.bar = (if n = 1 then none else some b.toNat) ∧ c.acq = (w.acq == 1) ∧ c.rel = (w.rel == 1) ∧ c.slot = w.slot ∧
        c.slice = w.slice ∧
        (n = 0 → w.kind ≠ .tcopyC → (u.bar g.team b.toNat).refs < 1023 →
          (t.bar g.team b.toNat).refs = (u.bar g.team b.toNat).refs + 1)) ∧
  (∀ (s u : State) (a k : BitVec 6) (b : BitVec 4) (q e : BitVec 1) (sc : BitVec 2) (n : BitVec 1) (z : BitVec 5) (i : Instr)
    (w : CmdWord) (resolve : List Word → Option CmdSpec) (d : List Word) (c : BitVec 8) (f : Word),
    let addr := s.g.getK a
    (i, w, resolve) ∈ engineForms s a k b q e n sc z →
    s.mid = [] → s.limit = none → s.regionHeld = false → s.g.acqHold = none →
    let live := fun (c : Cmd) => c.kind != .tzero && !c.arrived
    let full := (if w.kind.onMatrix then 32 else 64) ≤ (((s.core s.t.core).queue w.kind.onMatrix).filter live).length ∨
      64 ≤ ((s.commandsOf s.g.team).filter live).length ∨ (n = 0 ∧ (s.bar s.g.team b.toNat).refs = 1023)
    let lacks := (n = 0 ∧ s.t.type.bars ≤ b.toNat) ∨ (w.kind.onMatrix = true ∧ s.t.type.zslots ≤ z.toNat)
    (full → Waits i s .engineFull) ∧
    (¬full →
      (lacks → Gives i s fun t => Faulted s t causeIllegalOp 0 0 0) ∧
      (¬lacks → addr.toNat % 64 ≠ 0 → Gives i s fun t => Faulted s t causeMisaligned 0 addr 32) ∧
      (¬lacks → addr.toNat % 64 = 0 →
        (s.readBlocks addr 4 [] = .fail c f → Gives i s fun t => Faulted s t c 0 f 32) ∧
        (s.readBlocks addr 4 [] = .words d u →
          (resolve d = none → Gives i s fun t => Faulted u t causeIllegalOp 0 addr 0) ∧
          ∀ x, resolve d = some x →
            let bad := ∃ y, x.collective = some y ∧ u.sliceBad w y.1 y.2 = true
            let effect := u.t.speculative = true ∧ ∃ y, y ∈ x.dests ∧ u.isSystemDest y = true
            let livein := x.reads.find? u.t.unwritten
            let bounds := x.foots.findSome? (u.footFail u.g.team)
            let odd := x.aligns.find? fun y => y.1.toNat % y.2 != 0
            (bad → Gives i s fun t => Faulted u t causeIllegalOp 0 addr 0) ∧
            (¬bad → effect → Gives i s fun t => Faulted u t causeRegionEffect 0 0 0) ∧
            (¬bad → ¬effect →
              (∀ y, livein = some y → Gives i s fun t => Faulted u t causeRegionLivein 0 0 (BitVec.ofNat 64 y)) ∧
              (∀ y, livein = none → bounds = some y → Gives i s fun t => Faulted u t causeCopyBounds 0 addr y) ∧
              (∀ y, livein = none → bounds = none → odd = some y →
                Gives i s fun t => Faulted u t causeMisaligned 0 y.1 32) ∧
              (livein = none → bounds = none → odd = none → n = 0 →
                ((u.bar u.g.team b.toNat).valid = false →
                  Gives i s fun t => Faulted u t causeBarMisuse 0 0 (BitVec.ofNat 64 b.toNat)) ∧
                ((u.bar u.g.team b.toNat).valid = true → u.pendingNames b.toNat = true →
                  Gives i s fun t => Faulted u t causeBarBusy 0 0 (BitVec.ofNat 64 b.toNat))))))))

/-- R141, R142, R281, R346, R354: ENGINE_COMPLETE runs the last block of a command, in a collective the last block
of its last slice: the command, or every slice, leaves its queue, and its barrier takes one arrival with the
bytes that it, or all the slices together, wrote; an arrival that the barrier does not expect halts the
partition.  R268, R269, R353, R355, R356, R359, R361: what the last block of a command without a region writes:
of a TCOPY of one row of whole-byte elements, its elements copied or converted; of an RQT of a 32 x 32 tile of
FP8 elements, the last destination row and its scale; of a TGATH of one row, the elements of the row that the
index names, and zeros above LIMIT; of a TLOAD and a TSTORE, row 63; of an MMA of the Single class, the fused
chain of every element. -/
def Obligations.EngineCompletes : Prop :=
  (∀ (s u : State) (core id n : Nat) (matrix : Bool) (c : Cmd),
    ((s.core core).queue matrix).find? (·.id == id) = some c → c.kind.onMatrix = matrix → s.mayRun core c = true →
    c.done + 1 = c.blocks → s.blockOf core c c.done = .ok (n, u) →
    let all := u.together core c
    (∃ y, all.filter (·.id == id) = [y]) →
    (∀ y, y ∈ all → y.held = [] ∧ if y.id = id then y.done + 1 = y.blocks else y.blocks ≤ y.done) →
    (∀ y z, y ∈ (u.core core).queue matrix → z ∈ all → y.id = z.id → y ∈ all) →
    let gone := fun (t : State) => ∀ y z, y ∈ (t.core core).queue matrix → z ∈ all → y.id ≠ z.id
    (c.bar = none → Gives (.engineComplete core matrix id) s fun t => gone t ∧ t.groups = u.groups ∧ SameBytes u t) ∧
    ∀ b, c.bar = some b →
      let x := u.bar c.team b
      let pend : Int := x.pend - ((all.map (·.bytes)).sum + n : Nat)
      (2 ≤ x.arrive → -(2 ^ 31) ≤ pend → pend < 2 ^ 31 →
        Gives (.engineComplete core matrix id) s fun t => gone t ∧ t.groups = u.groups ∧ SameBytes u t ∧
          t.bar c.team b = { x with pend, arrive := x.arrive - 1, refs := x.refs - 1 }) ∧
      (x.arrive = 1 → pend = 0 →
        Gives (.engineComplete core matrix id) s fun t => gone t ∧ WokenAt u t c.team b true ∧ SameBytes u t ∧
          t.bar c.team b = { x with pend := 0, phase := !x.phase, arrive := x.init, refs := x.refs - 1 }) ∧
      ((x.arrive = 0 ∨ (x.arrive = 1 ∧ pend ≠ 0)) →
        Gives (.engineComplete core matrix id) s fun t => (t.part c.part).halt ≠ none)) ∧
  (∀ (s : State) (core : Nat) (c : Cmd), LastBlock s core c →
    let d := c.desc
    let see := fun (loc n : Nat) => leNat (s.viewBytes c.team loc n)
    let ends := fun (post : State → Prop) => Gives (.engineComplete core c.kind.onMatrix c.id) s post
    let conv := fun (sf df raw : Nat) => if sf = df then raw else convertElem df c.dmode (elemValue sf 0 raw none)
    let slot := fun (t : State) (z : Nat) => (t.team c.team).slot z
    let f := tileFmt d
    let n := elemAlign f
    (∀ p from_ dest, c.kind = .tcopy → copyPlan d none false false = some p → c.done = 0 → p.rows = 1 →
      p.sf ∉ [6, 7, 8, 9] → p.df ∉ [6, 7, 8, 9] → p.ssc = 0 → p.dsc = 0 →
      ReadsFrom s c p.src (p.cols * elemAlign p.sf) from_ → WritesTo s c p.dst (p.cols * elemAlign p.df) dest →
      ends fun t => Stored s t dest ((List.range p.cols).flatMap fun e =>
        leBytes (elemAlign p.df) (conv p.sf p.df (see (from_ + e * elemAlign p.sf) (elemAlign p.sf))))) ∧
    (∀ p (from_ scales : Nat → Nat) (dest scale : Nat), c.kind = .rqt → copyPlan d none true false = some p → p.rows = 32 →
      p.cols = 32 → p.sf ∈ [4, 5] → p.df ∈ [4, 5] →
      (∀ r, r < 32 → ReadsFrom s c (plus (plus p.src (r * p.sst)) 31) 1 (from_ r) ∧ ReadsFrom s c (plus p.ssc r) 1 (scales r)) →
      WritesTo s c (plus p.dst (31 * p.dstr)) 32 dest → WritesTo s c (plus p.dsc 31) 1 scale →
      (scale < dest ∨ dest + 32 ≤ scale) →
      let q := quantBlock p.df ((List.range 32).map fun r => elemValue p.sf 0 (see (from_ r) 1) (some (see (scales r) 1)))
      let codes := q.2.map fun y => BitVec.ofNat 8 (quantCode p.df y.val)
      ends fun t => ∀ a, t.byteAt a =
        if dest ≤ a ∧ a < dest + 32 then codes.getD (a - dest) 0 else if a = scale then BitVec.ofNat 8 q.1 else s.byteAt a) ∧
    (∀ p index from_ dest, c.kind = .tgath → gatherPlan d = some p → c.done = 0 → p.count = 1 →
      ReadsFrom s c p.index p.idx index → WritesTo s c p.dst (p.rowElem * elemAlign p.df) dest →
      let j := see index p.idx
      (j < p.limit → ReadsFrom s c (plus p.table (j * p.tst)) (p.rowElem * elemAlign p.sf) from_) →
      ends fun t => Stored s t dest ((List.range p.rowElem).flatMap fun e => leBytes (elemAlign p.df)
        (if j < p.limit then conv p.sf p.df (see (from_ + e * elemAlign p.sf) (elemAlign p.sf)) else 0))) ∧
    (∀ from_, c.kind = .tload → f ≤ 3 → ReadsFrom s c (plus (dword d 0) (63 * tileStride d)) (64 * n) from_ →
      ends fun t => SameBytes s t ∧ (∀ e, e / 64 ≠ 63 → (slot t c.slot).elem e = (slot s c.slot).elem e) ∧
        ∀ x, x < 64 →
          let raw := see (from_ + x * n) n
          let lo := (slot t c.slot).elem (63 * 64 + x)
          (f = 0 → lo = ⟨BitVec.ofNat 32 raw, 24, absByte (fp32.decode raw)⟩) ∧
          (f = 2 ∨ f = 3 →
            let v := (fmtOf f).decode raw
            lo = ⟨BitVec.ofNat 32 (fp32.encode v), 24, absByte (fp32.decode (fp32.encode v))⟩) ∧
          (f = 1 → lo = ⟨BitVec.ofNat 32 raw, 53, absByte (fp64.decode raw)⟩ ∧
            (slot t (c.slot + 1)).elem (63 * 64 + x) = ⟨BitVec.ofNat 32 (raw / 2 ^ 32), 0, 0⟩)) ∧
    (∀ dest, c.kind = .tstore → f ≤ 3 → WritesTo s c (plus (dword d 0) (63 * tileStride d)) (64 * n) dest →
      ends fun t => Stored s t dest ((List.range 64).flatMap fun x =>
        let lo := ((slot s c.slot).elem (63 * 64 + x)).bits.toNat
        let hi := ((slot s (c.slot + 1)).elem (63 * 64 + x)).bits.toNat
        leBytes n (if f = 0 then lo else if f = 1 then lo + hi * 2 ^ 32
          else (fmtOf f).encode ((fmtOf f).rnd {} 0 (fp32.decode lo)).val))) ∧
    (∀ (as bs : Nat → Nat) acc ord, c.kind = .mma → rungFields c.rung = (0, 0, 0, 0, acc, ord) → acc ≠ 1 →
      dword d 2 = 0 → dword d 3 = 0 →
      (∀ r, r < 64 → ReadsFrom s c (plus (dword d 0) (r * field (dword d 4) 0 32)) 32 (as r) ∧
        ReadsFrom s c (plus (dword d 1) (r * field (dword d 4) 32 32)) 32 (bs r)) →
      ends fun t => SameBytes s t ∧ ∀ i j, i < 64 → j < 64 →
        let A := fun (k : Nat) => fp32.decode (see (as i + 4 * k) 4)
        let B := fun (k : Nat) => fp32.decode (see (bs j + 4 * k) 4)
        let C := fp32.decode ((slot s c.slot).elem (64 * i + j)).bits.toNat
        let chain := (List.range 8).foldl (fun x k => ((accFmt acc).rnd {} 0 (fadd false x (fmul (A k) (B k)))).val) C
        ((slot t c.slot).elem (64 * i + j)).bits = BitVec.ofNat 32 (fp32.encode (fp32.rnd {} 0 chain).val)))

/-- R199, R349, R361: TZERO and TSTAT of a slot that no earlier command names; behind an earlier command TZERO is accepted
to run in its turn, and TSTAT waits. -/
def Obligations.SlotResults : Prop :=
  ∀ (s : State) (z : BitVec 5) (d : BitVec 6) (c : BitVec 1), z.toNat < s.t.type.zslots → s.regionHeld = false →
    let busy := s.slotBusy s.g.team z.toNat s.nextCmd
    (busy = false →
      Gives (.tzero z) s fun t =>
        t.g = s.g.nextWord ∧ (∀ e, e < 4096 → (t.t.slot z.toNat).elem e = ⟨0, 24, 0⟩) ∧
        (t.t.slot z.toNat).status = 0xFC0000 ∧ (t.t.slot z.toNat).written = true ∧
        (∀ j, j ≠ z.toNat → t.t.slot j = s.t.slot j) ∧ SameBytes s t) ∧
    (busy = true →
      (Gives (.tzero z) s fun t =>
        t.g = s.g.nextWord ∧ SameBytes s t ∧ (t.t.slot z.toNat).elems = (s.t.slot z.toNat).elems ∧
        ∃ x : Cmd, (t.core s.t.core).matQ = (s.core s.t.core).matQ ++ [x] ∧ x.kind = .tzero ∧ x.slot = z.toNat ∧
          x.id = s.nextCmd ∧ x.bar = none) ∧
      Waits (.tstat d c z) s .engineFull) ∧
    (busy = false → s.t.openRegion = none →
      Gives (.tstat d c z) s fun t =>
        t.g = (s.g.setK d (s.t.slot z.toNat).status).nextWord ∧ SameBytes s t ∧
        (t.t.slot z.toNat).status = if c = 1 then 0xFC0000 else (s.t.slot z.toNat).status) ∧
    (∀ r, busy = false → s.t.openRegion = some r → (s.t.slot z.toNat).written = false →
      Gives (.tstat d c z) s fun t => Faulted s t causeRegionLivein 0 0 (BitVec.ofNat 64 z.toNat))

/-- R215, R216, R220, R363: PEND waits for the commit; PEND.A goes on, and the last partner's makes the region
pending; with no region open both fault.  R212, R218, R224, R364, R365: PABORT aborts the open region one rung
up, is recorded alone in non-speculative mode, and has no effect while a trip is being handled; PQUERY reads the
Locus table, the last status word and the regions in flight. -/
def Obligations.RegionCloseResults : Prop :=
  (∀ (s : State), s.waitingAt = none →
    let g := s.g
    (∀ r, s.t.openRegion = some r → g.closed = none → (r.spec = true → g.synced = true) →
      (Gives .pend s fun t => t.g = { g with closed := some true, cwait := some .regionCommit } ∧ SameBytes s t) ∧
      (s.t.pending = none → s.actor ∈ s.partners g.team →
        Gives .pendA s fun t => t.g.cpc = g.cpc + 4 ∧ SameBytes s t ∧
          ((∀ k, k ∈ s.partners g.team → k ≠ s.actor → (s.group k).closed ≠ none) →
            t.t.pending = some r ∧ t.t.openRegion = none ∧ t.g.closed = none) ∧
          ((∃ k, k ∈ s.partners g.team ∧ k ≠ s.actor ∧ (s.group k).closed = none) →
            t.t.openRegion = some r ∧ t.g.closed = some false))) ∧
    (s.t.openRegion = none → s.t.pending = none → g.closed = none →
      (Gives .pend s fun t => Faulted s t causeRegionNone 0 0 0) ∧ Gives .pendA s fun t => Faulted s t causeRegionNone 0 0 0) ∧
    (g.closed = some true → s.t.openRegion = none → s.t.pending = none →
      Gives .pend s fun t => Became s t { g.nextWord with closed := none }) ∧
    (g.closed = some true → (s.t.openRegion ≠ none ∨ s.t.pending ≠ none) → Waits .pend s .regionCommit)) ∧
  (∀ (s : State) (d b : BitVec 6),
    let g := s.g
    (∀ r, s.t.openRegion = some r → s.regionHeld = false → (∀ q, s.t.pending = some q → q.id ≠ r.id) →
      (r.spec = true → s.t.tripped = none → r.canReplay = true → s.actor ∈ s.partners g.team → bit s.p.dbg.ctl 1 = false →
        Gives .pabort s fun t =>
          t.g.restarting = true ∧ t.g.cpc = g.cpc + 4 ∧ t.t.restart = some false ∧ t.t.pending = s.t.pending ∧ SameBytes s t ∧
          ∃ r', t.t.openRegion = some r' ∧ r'.rung = r.rung + 1 ∧ r'.replays = r.replays + 1 ∧ r'.writes = [] ∧ r'.id = r.id) ∧
      (r.spec = true → s.t.tripped ≠ none → Gives .pabort s fun t => Became s t g.nextWord) ∧
      (r.spec = false → Gives .pabort s fun t =>
        t.g = g.nextWord ∧ t.t.openRegion = some { r with tripMon := 0 } ∧ SameBytes s t)) ∧
    (s.t.openRegion = none → s.t.pending = none → s.g.closed = none →
      (Gives .pabort s fun t => Faulted s t causeRegionNone 0 0 0) ∧ SetsK (.pquery d 0 1) s d 0) ∧
    SetsK (.pquery d 0 2) s d s.t.lastStatus ∧
    (∀ r, s.t.openRegion = some r → r.rung < 8 →
      SetsK (.pquery d 0 1) s d (BitVec.ofNat 64 (field (dword r.desc 0) 0 32 * 2 ^ 32 + min 255 r.replays * 2 ^ 24 +
        r.rung * 2 ^ 8 + b2n (!r.spec) * 4 + b2n s.t.pending.isSome * 2 + 1))) ∧
    ∀ (tgt : Target) (marks : List (Nat × Word)) (skip starve : Nat),
      let addr := if g.getK b = 0 then s.t.type.ldef else g.getK b
      let u := (s.afterCheck tgt marks skip starve false).syncRead tgt
      addr ≠ 0 → addr.toNat % 64 = 0 → g.acqHold = none → s.check g.team addr 8 .read false = .ok tgt marks skip starve →
      Gives (.pquery d b 0) s fun t =>
        SameButWake (g.setK d (locusWord ((s.p.locusFind (s.keyOf s.t
          (bytesWord (u.viewBytes g.team tgt.loc 8)))).map (·.2)))).nextWord t.g ∧ SameBytes u t)

/-- R198, R201, R211: REGION_RESTART brings every group of the region back to its checkpoint, at the start of a
pass.  R203, R217, R218: REGION_COMMIT publishes the region's bytes and its status word and nothing else, keeps
the status word, and advances REGSEQ; a pending region commits also while the one behind it waits for its
restart (R220).  R207, R210, R213, R220, R228: a trip, the pending region's first, aborts its region one rung up
while it may replay, and otherwise halts the partition or flags the region as TOPACT says; a region without room
for a line aborts to restart non-speculatively, at the same rung count. -/
def Obligations.RegionEvents : Prop :=
  (∀ (s : State) (team k : Nat) (ns : Bool) (r : Region) (x : GroupCheckpoint),
    let t0 := s.team team
    t0.restart = some ns → t0.openRegion = some r → t0.phase = .resident → (s.part t0.part).halt = none →
    s.drained (r.ckpt.keys.map (team * 32 + ·)) = true →
    (ns = true → t0.pending = none) → SMap.rising 0 r.ckpt = true → k < 32 → SMap.find? r.ckpt k = some x →
    Gives (.regionRestart team) s fun t =>
      let h := t.group (team * 32 + k)
      h.k = x.k ∧ h.c = x.c ∧ h.fmt = x.fmt ∧ h.cpc = x.cpc ∧ h.lq = [] ∧ h.cq = [] ∧ h.running = false ∧ h.restarting = false ∧
      h.v = (s.group (team * 32 + k)).v ∧ h.live = (s.group (team * 32 + k)).live ∧ SameBytes s t ∧
      (t.team team).restart = none ∧ ∃ r', (t.team team).openRegion = some r' ∧ r'.spec = !ns ∧ r'.desc = r.desc ∧
        r'.rung = if ns then descNrung r.desc - 1 else r.rung) ∧
  (∀ (s : State) (team : Nat) (r : Region),
    let t0 := s.team team
    let p := s.part t0.part
    t0.pending = some r → r.trip = none → r.starved = false → s.regionDrained team r = true →
    t0.phase = .resident → p.state = .run → p.halt = none → bit p.dbg.ctl 1 = false →
    let data := fun (a : Nat) => (SMap.find? r.writes a).getD (s.byteAt a)
    Gives (.regionCommit team) s fun t =>
      (∀ a, t.byteAt a = match r.rsw with
        | some x => if x.loc ≤ a ∧ a < x.loc + 8 then (leBytes 8 r.status.toNat).getD (a - x.loc) 0 else data a
        | none => data a) ∧
      (t.team team).regSeq = t0.regSeq + 1 ∧
      (t.team team).lastStatus = r.status ∧ (t.team team).pending = none ∧ (t.team team).openRegion = t0.openRegion) ∧
  (∀ (s : State) (team : Nat) (r : Region),
    let t0 := s.team team
    t0.phase = .resident → (s.part t0.part).halt = none →
    (∀ mon, t0.tripped = some r → r.trip = some mon → r.canReplay = true →
      Gives (.regionTrip team) s fun t => (t.team team).restart = some false ∧
        ∃ r', (t.team team).openRegion = some r' ∧ r'.id = r.id ∧ r'.rung = r.rung + 1 ∧ r'.writes = [] ∧ r'.trip = none ∧
          r'.tripMon = mon) ∧
    (∀ mon, t0.tripped = some r → r.trip = some mon → r.canReplay = false → descTopact r.desc = 0 →
      Gives (.regionTrip team) s fun t => (t.part t0.part).halt ≠ none) ∧
    (∀ mon, t0.tripped = some r → r.trip = some mon → r.canReplay = false → descTopact r.desc ≠ 0 →
      let r' := { r with flagged := true, tripMon := mon, trip := none }
      Gives (.regionTrip team) s fun t =>
        ((t.team team).openRegion = some r' ∨ (t.team team).pending = some r') ∧ (t.team team).restart = t0.restart) ∧
    (t0.tripped = none → (t0.pending = some r ∨ (t0.pending = none ∧ t0.openRegion = some r)) → r.starved = true → r.spec = true →
      Gives (.shadowFull team) s fun t => (t.team team).restart = some true ∧
        ∃ r', (t.team team).openRegion = some r' ∧ r'.id = r.id ∧ r'.writes = [] ∧ r'.replays = r.replays))

/-- R51, R70, R367: TDEC subtracts kb from a word of device memory that is no task counter, or of host memory; a
decrement of 0 does nothing; on the non-coherent window it is a request whose FetchAdd the host performs later
(log 90, DEDUCED), or refuses with HOST_ABORT; a window address and a failing check fault.  INFO 32 of its
faults is the model's reading (log 16, DEDUCED).  R70, R71, R79, R367: what TDEC does with a task record's
counter: it fires a record that reaches 0: a NOP record of a running partition is DONE at once and issues its
successors' decrements; a negative decrement, and one that leaves the counter positive, only update it; a record
that must not be decremented is poisoned and the partition halts.  A check that fails raises its cause with INFO
32 (log 16, DEDUCED). -/
def Obligations.TdecResults : Prop :=
  (∀ (s : State) (a b : BitVec 6) (tgt : Target) (marks : List (Nat × Word)) (skip starve : Nat),
    let g := s.g
    let nc := tgt.isNonCoherent
    let v := s.afterCheck tgt marks skip starve true
    let u := v.syncFor tgt
    let n := g.getK b
    let past := cellsAt tgt.loc (v.viewBytes g.team tgt.loc 8) ++ g.past
    s.plain → s.regionHeld = false → g.memHold [g.st] = none → s.check g.team (g.getK a) 8 .write false = .ok tgt marks skip starve →
    (tgt.isWindow = true → Gives (.tdec a b) s fun t => Faulted s t causeBadWindow 0 (g.getK a) 32) ∧
    (tgt.isWindow = false → n = 0 → Gives (.tdec a b) s fun t =>
      SameButWake g.nextWord t.g ∧ SameBytes v t ∧ t.pkg.hostHeld = s.pkg.hostHeld ∧ t.pkg.posted = s.pkg.posted) ∧
    (tgt.isWindow = false → n ≠ 0 → s.lockWait tgt.loc 8 true = false →
      (tgt.isSystem = true ∨ u.byteAt (tgt.loc + 15) ≠ 0x5A) →
      Gives (.tdec a b) s fun t => if s.atomicFails tgt then Faulted s t causeHostAbort 0 (g.getK a) 32 else
        SameButWake { g.nextWord with
          st := g.st ++ [{ nonCoherent := nc, seq := g.seq
                           late := if nc then [{ loc := tgt.loc, len := 8, op := .dec g.part (g.getK a) n, dest := .none
                                                 addr := g.getK a, lane := 32 }] else [] }]
          seq := g.seq + 1, past } t.g ∧
        (nc = true → SameBytes u t) ∧ (nc = false → Stored u t tgt.loc (leBytes 8 (u.wordAt tgt.loc - n).toNat)))) ∧
  ((∀ (s : State) (a b : BitVec 6) (c : BitVec 8), s.plain → s.regionHeld = false → s.g.memHold [s.g.st] = none →
    s.check s.g.team (s.g.getK a) 8 .write false = .fault c → Gives (.tdec a b) s fun t => Faulted s t c 0 (s.g.getK a) 32) ∧
  ∀ (s : State) (a b : BitVec 6) (pa : Nat) (marks : List (Nat × Word)) (skip starve : Nat),
    let g := s.g
    let u := s.afterCheck (.dev pa) marks skip starve true
    let n := g.getK b
    let st := u.wordAt (pa + 0x68)
    s.plain → s.regionHeld = false → g.memHold [g.st] = none → s.check g.team (g.getK a) 8 .write false = .ok (.dev pa) marks skip starve →
    s.lockWait pa 8 true = false → pa % 128 = 0 → pa + 128 ≤ hostBase → u.byteAt (pa + 15) = 0x5A → n ≠ 0 →
    let poison := bit (u.wordAt (pa + 8)) 18
    let old := (u.wordAt pa).toInt
    let new := (u.wordAt pa - n).toInt
    (poison = false → (n.toInt < 0 ∨ (0 < n.toInt ∧ 0 < old ∧ 0 < new)) →
      Gives (.tdec a b) s fun t => Stored u t pa (leBytes 8 (u.wordAt pa - n).toNat) ∧ t.p.halt = s.p.halt ∧
        t.p.work = s.p.work) ∧
    (0 < n.toInt → poison = false → u.wordAt pa = n → field st 0 3 = 0 →
      recordOk (0 :: (u.recordWords pa).tail) = true → recKind (u.recordWords pa) = 0 → s.p.state = .run → s.p.halt = none →
      Gives (.tdec a b) s fun t => field (t.wordAt (pa + 0x68)) 0 3 = 3 ∧ t.wordAt pa = 0 ∧
        t.p.work.length = s.p.work.length + recNsucc (u.recordWords pa) + b2n (bit (u.wordAt (pa + 8)) 27)) ∧
    ((poison = true ∨ (0 < n.toInt ∧ (old ≤ 0 ∨ new < 0 ∨ (new = 0 ∧ field st 0 3 ≠ 0)))) → bit s.p.dbg.ctl 1 = false →
      Gives (.tdec a b) s fun t => field (t.wordAt (pa + 0x68)) 0 3 = 4 ∧ bit (t.wordAt (pa + 8)) 18 = true ∧ t.p.halt ≠ none))

/-- R81, R83, R368: RCLAIM returns the next chunk of the unit's interval, at most GRAIN long, or under DRAW the next
chunk of the record's own range, which it advances CURSOR over; and an empty chunk once the interval or range is
exhausted or the launch is not over a range.  R84, R369: TFIN ends its launch with a code, once.  R85, R366:
TSPAWN adds its entry to the open batch of its type and class, or opens one. -/
def Obligations.TaskInstructionResults : Prop :=
  (∀ (s : State) (a : BitVec 6) (l : Launch), s.plain → s.regionHeld = false → a.getLsbD 0 = false → s.launchOf s.t = some l →
    let iv := l.ivs.get (0, 0) s.t.unit
    let after := fun (t : State) (x y : Nat) =>
      t.g = ((s.g.setK a (BitVec.ofNat 64 x)).setK (a + 1) (BitVec.ofNat 64 y)).nextWord ∧ SameBytes s t
    (l.finished = true ∨ l.range = false → Gives (.rclaim a) s fun t => after t 0 0) ∧
    (l.finished = false → l.range = true → l.draw = false → iv.2 ≤ iv.1 → Gives (.rclaim a) s fun t => after t 0 0) ∧
    (l.finished = false → l.range = true → l.draw = false → iv.1 < iv.2 →
      Gives (.rclaim a) s fun t => after t iv.1 (min (iv.1 + l.grain) iv.2) ∧
        ∃ l', t.launchOf t.t = some l' ∧ l'.ivs.get (0, 0) s.t.unit = (min (iv.1 + l.grain) iv.2, iv.2)) ∧
    (∀ (u : State) loc, l.finished = false → l.range = true → l.draw = true →
      s.agentLoc s.g.part l.record 128 .write = .ok (loc, u) →
      let cursor := (u.wordAt (loc + 0x30)).toNat
      let hi := (u.wordAt (loc + 0x20)).toNat
      let b := min (cursor + l.grain * max 1 ((hi - cursor) / (2 * (l.started - l.retired) * l.grain))) hi
      let got := fun (t : State) (x y : Nat) =>
        t.g = ((s.g.setK a (BitVec.ofNat 64 x)).setK (a + 1) (BitVec.ofNat 64 y)).nextWord
      (hi ≤ cursor → Gives (.rclaim a) s fun t => got t 0 0 ∧ SameBytes u t) ∧
      (cursor < hi → Gives (.rclaim a) s fun t => got t cursor b ∧ Stored u t (loc + 0x30) (leBytes 8 b)))) ∧
  (∀ (s u : State) (c : BitVec 8) (l : Launch) (loc : Nat), s.plain → s.regionHeld = false → s.launchOf s.t = some l →
    (l.finished = true → Gives (.tfin c) s fun t => Became s t s.g.nextWord) ∧
    (l.finished = false → s.agentLoc s.g.part l.record 128 .write = .ok (loc, u) →
      (∀ k, (s.p.queues.get [] k).contains l.record = false) →
      Gives (.tfin c) s fun t =>
        SameButWake s.g.nextWord t.g ∧
        field (t.wordAt (loc + 0x68)) 16 8 = c.toNat ∧ bit (t.wordAt (loc + 0x68)) 15 = true ∧
        ∀ l', l' ∈ t.p.launches → l'.id = l.id → l'.finished = true)) ∧
  (∀ (s u v : State) (a b : BitVec 6) (cls : BitVec 3) (ty : BitVec 8) (x : TaskType) (m : Batch),
    s.plain → s.regionHeld = false → s.g.memHold [] = none → s.readType s.g.part ty.toNat = .ok (x, u) →
    field (s.g.getK b) 57 7 = 0 →
    let die := s.t.core / 64
    let mine := u.p.batches.filter fun y => y.slot / 16 == die
    let fits := fun (y : Batch) => y.isOpen && y.ttype == ty.toNat && y.cls == cls.toNat
    let at' := fun (y : Batch) => ctlAt (0x10000 + 0x1000 * y.slot + 16 * y.entries)
    let added := fun (w : State) (y : Batch) => Gives (.tspawn a b cls ty) s fun t =>
      t.g.cpc = s.g.cpc + 4 ∧ { y with entries := y.entries + 1 } ∈ t.p.batches ∧ SameBytes w t
    (mine.find? fits = some m → m.entries + 1 < 256 →
      u.agentWrite s.g.part (at' m) 16 (wordsBytes [s.g.getK a, s.g.getK b]) = .ok v → added v m) ∧
    (∀ i, mine.find? fits = none → i < 16 → ((List.range 16).find? fun j => !(mine.any fun y => y.slot == die * 16 + j)) = some i →
      let y : Batch := { slot := die * 16 + i, ttype := ty.toNat, cls := cls.toNat, entries := 0, isOpen := true, order := u.p.nextBatch
                         cluster := s.t.core / 4, since := (u.cluster (s.t.core / 4)).cycles }
      (u.setP { u.p with nextBatch := u.p.nextBatch + 1 }).agentWrite s.g.part (at' y) 16
        (wordsBytes [s.g.getK a, s.g.getK b]) = .ok v → added v y))

/-! ## Lane words: arithmetic (R370-R390) -/

/-- R370, R374, R376: the integer words, in every executing lane, at width 32 or 64; no word but SEL, MOV and MOVI leaves
a tag. -/
def Obligations.LaneIntegerResults : Prop :=
  ∀ (s : State) (f : LaneFields), s.fileOk f = true →
    let w := if f.ty = 1 then 64 else 32
    let n := if f.ty = 1 then 2 else 1
    let u := fun (x : Operand) (i : Nat) => s.g.readInt f x i n % 2 ^ w
    let z := fun (x : Operand) (i : Nat) => (BitVec.ofNat w (s.g.readInt f x i n)).toInt
    let sat := f.sat == 1
    let sets := fun (i : Instr) (k : Nat) (v : Nat → Nat) => i.wf = true → SetsLanes i s f k fun j => { bits := v j }
    sets (.iadd f) n (fun i => narrowInt sat w (z f.a i + z f.b i)) ∧
    sets (.isub f) n (fun i => narrowInt sat w (z f.a i - z f.b i)) ∧
    sets (.imul f) n (fun i => u f.a i * u f.b i) ∧
    sets (.imulh f) n (fun i =>
      if f.sub = 1 then u f.a i * u f.b i / 2 ^ w else narrowInt false w (z f.a i * z f.b i / 2 ^ w)) ∧
    sets (.imad f) n (fun i => narrowInt sat w (z f.a i * z f.b i + z f.c i)) ∧
    sets (.imin f) n (fun i => if f.sub = 1 then min (u f.a i) (u f.b i) else narrowInt false w (min (z f.a i) (z f.b i))) ∧
    sets (.imax f) n (fun i => if f.sub = 1 then max (u f.a i) (u f.b i) else narrowInt false w (max (z f.a i) (z f.b i))) ∧
    sets (.iabs f) n (fun i => narrowInt false w (max (z f.a i) (-z f.a i))) ∧
    sets (.laneAnd f) n (fun i => u f.a i &&& u f.b i) ∧
    sets (.laneOr f) n (fun i => u f.a i ||| u f.b i) ∧
    sets (.laneXor f) n (fun i => u f.a i ^^^ u f.b i) ∧
    sets (.laneNot f) n (fun i => 2 ^ w - 1 - u f.a i) ∧
    sets (.laneShl f) n (fun i => u f.a i * 2 ^ (u f.b i % w)) ∧
    sets (.laneShr f) n (fun i => u f.a i / 2 ^ (u f.b i % w)) ∧
    sets (.laneSra f) n (fun i => narrowInt false w (z f.a i / 2 ^ (u f.b i % w))) ∧
    sets (.lanePopc f) 1 (fun i => ((List.range w).filter fun k => (u f.a i).testBit k).length) ∧
    sets (.laneClz f) 1 (fun i => if u f.a i = 0 then w else w - 1 - Nat.log2 (u f.a i)) ∧
    (∃ v : Nat → Nat, (∀ i k, i < 32 → k < w → (v i).testBit k = (u f.a i).testBit (w - 1 - k)) ∧ sets (.brev f) n v)

/-- R303, R374, R375, R376: fields, comparisons, selections and moves; SEL and MOV carry the tag of the source they
take. -/
def Obligations.LaneMoveResults : Prop :=
  ∀ (s : State) (f : LaneFields), s.fileOk f = true →
    let w := if f.ty = 1 then 64 else 32
    let n := if f.ty = 1 then 2 else 1
    let pos := f.imm.toNat % 64
    let width := f.imm.toNat / 256 % 128
    let src := fun (x : Operand) (k i : Nat) => s.g.readInt f x i k
    let a := fun (i : Nat) => src f.a n i % 2 ^ w
    let b := fun (i : Nat) => src f.b n i % 2 ^ w
    let tagOf := fun (x : Operand) (i : Nat) => ((s.g.storedTag x i).getD 0).toNat
    ((Instr.bfe f).wf = true → SetsLanes (.bfe f) s f n fun i =>
      let x := a i / 2 ^ pos % 2 ^ width
      { bits := if f.sub = 1 then narrowInt false w (BitVec.ofNat width x).toInt else x }) ∧
    ((Instr.bfi f).wf = true → SetsLanes (.bfi f) s f n fun i =>
      { bits := b i / 2 ^ (pos + width) * 2 ^ (pos + width) + a i % 2 ^ width * 2 ^ pos + b i % 2 ^ pos }) ∧
    ((Instr.iset f).wf = true → SetsLanes (.iset f) s f 1 fun i =>
      { bits := b2n (intCond (BitVec.ofNat 3 f.sub.toNat) (BitVec.ofNat w (a i)) (BitVec.ofNat w (b i))) }) ∧
    ((Instr.laneSel f).wf = true → SetsLanes (.laneSel f) s f n fun i =>
      if src f.c 1 i = 0 then { bits := src f.b n i, tag := tagOf f.b i } else { bits := src f.a n i, tag := tagOf f.a i }) ∧
    ((Instr.mov f).wf = true → SetsLanes (.mov f) s f (if f.ty = 2 then 4 else n) fun i =>
      { bits := src f.a (if f.ty = 2 then 4 else n) i, tag := tagOf f.a i }) ∧
    ((Instr.movi f).wf = true → f.sub = 0 → SetsLanes (.movi f) s f 1 fun _ => { bits := f.imm.toNat, tag := 24 }) ∧
    ((Instr.movi f).wf = true → f.sub = 1 → SetsLanes (.movi f) s f 2 fun i =>
      { bits := (s.g.reg f.dst 0 i).bits.toNat + f.imm.toNat * 2 ^ 32, tag := 53 })

/-- R253, R263, R377-R381: with no significance threshold (SignificanceTrap has the rest), the arithmetic words
round the exact result once and carry the tag of their rule; a transcendental rounds a value whose error within
R380's bound is a free value of the model's (log 6, DEDUCED).  R2, R378, R382, R383: choices, comparisons and
classes of floating-point values; a choice between equal values is the part's, the same for the same operands.
R249, R250, R253-R255: what the formats' own functions give: the value of every encoding and the encoding of
every value that a format holds; Rnd of a finite value gives the representable value that the mode asks for,
flushed where FMT[3] says so, or OvfResult where it rounds above the largest one; of an infinity InfResult, of a
NaN NaN, of a zero itself. -/
def Obligations.LaneFloatResults : Prop :=
  (∀ (s : State) (f : LaneFields), s.fileOk f = true → s.g.lfmt.extractLsb' 6 6 = 0#6 →
    let b := fmtBits s.g.lfmt
    let mode := if f.rnd = 7 then (s.g.lfmt.extractLsb' 0 3).toNat else f.rnd.toNat
    let n := if f.ty = 1 then 2 else 1
    let rounds := fun (F : Fmt) (e : FVal) (tag : Nat) => (F.encode (F.rnd b mode e).val, tagSteps F e (F.rnd b mode e) tag)
    let adds := fun (F : Fmt) (x y : TVal) =>
      let e := fadd (mode == 3) x.v y.v
      (F.encode (F.rnd b mode e).val, tagOfSum F e (F.rnd b mode e) [x, y])
    let sets := fun (i : Instr) (srcs : List Operand) (op : ElemOp) =>
      i.wf = true → SetsLanes i s f n fun j => s.g.floatLane f srcs j op
    let trans := fun (i : Instr) (t : Trans) => sets i [f.a] fun F xs =>
      let e := t.value (BitVec.ofNat 32 (F.encode (tval xs 0).v)) mode s.g.lfmt (tval xs 0).v
      rounds F e (if e.isZero && !(t.approx (tval xs 0).v).2 then 0 else min ((tval xs 0).s - 1) (F.p - 2))
    sets (.fadd f) [f.a, f.b] (fun F xs => adds F (tval xs 0) (tval xs 1)) ∧
    sets (.fsub f) [f.a, f.b] (fun F xs => adds F (tval xs 0) ⟨(tval xs 1).v.negate, (tval xs 1).s⟩) ∧
    sets (.fmul f) [f.a, f.b] (fun F xs =>
      rounds F (fmul (tval xs 0).v (tval xs 1).v) (tagMul F.p (tval xs 0).s (tval xs 1).s)) ∧
    sets (.ffma f) [f.a, f.b, f.c] (fun F xs =>
      adds F ⟨fmul (tval xs 0).v (tval xs 1).v, tagMul F.p (tval xs 0).s (tval xs 1).s⟩ (tval xs 2)) ∧
    sets (.frcp f) [f.a] (fun F xs => rounds F (frcp (tval xs 0).v) (tagMul F.p (tval xs 0).s F.p)) ∧
    sets (.frsq f) [f.a] (fun F xs => rounds F (frsq (tval xs 0).v) (tagMul F.p (min F.p ((tval xs 0).s + 1)) F.p)) ∧
    sets (.fsqrt f) [f.a] (fun F xs =>
      let x := tval xs 0
      rounds F (fsqrt x.v) (if x.v.isZero && decide (x.s < F.p) then x.s else min F.p (x.s + 1))) ∧
    sets (.frnd f) [f.a] (fun F xs =>
      let r := F.rnd b mode (frndInt mode (tval xs 0).v)
      (F.encode r.val, if r.val.isZero then (if (tval xs 0).v.isNZ then 0 else min (tval xs 0).s F.p)
        else tagSteps F (frndInt mode (tval xs 0).v) r (tagAdd F.p r.val.E [tval xs 0]))) ∧
    trans (.fexp2 f) .exp2 ∧ trans (.flog2 f) .log2 ∧ trans (.ftanh f) .tanh ∧ trans (.fsin f) .sin ∧ trans (.fcos f) .cos) ∧
  (∀ (s : State) (f : LaneFields), s.fileOk f = true → s.g.lfmt.extractLsb' 6 6 = 0#6 →
    let n := if f.ty = 1 then 2 else 1
    let g := s.g
    let code := f.ty.toNat
    let F := fmtOf code
    ((Instr.fmin f).wf = true → SetsLanes (.fmin f) s f n fun i => s.minLane f false i) ∧
    ((Instr.fmax f).wf = true → SetsLanes (.fmax f) s f n fun i => s.minLane f true i) ∧
    ((Instr.fset f).wf = true → SetsLanes (.fset f) s f 1 fun i =>
      let test := fun (x y : TVal) => b2n (floatCond f.sub.toNat x.v y.v)
      { bits := if code ≤ 1 then test (g.floatVal f f.a i code) (g.floatVal f f.b i code)
          else test (g.pairVal f f.a i code 0) (g.pairVal f f.b i code 0) +
            2 * test (g.pairVal f f.a i code 1) (g.pairVal f f.b i code 1) }) ∧
    ((Instr.fclass f).wf = true → SetsLanes (.fclass f) s f 1 fun i =>
      { bits := if code ≤ 1 then 2 ^ floatClass F (g.readFloat f f.a i code)
          else 2 ^ floatClass F (g.readPair f f.a i code).1 + 2 ^ (16 + floatClass F (g.readPair f f.a i code).2) }) ∧
    (∀ (max : Bool) (i n : Nat), { s with free := n }.minLane f max i = s.minLane f max i) ∧
    (∀ (max first : Bool) (x y : FVal), x ≠ .nan → y ≠ .nan → fcmp x y < 0 → minChoice max first x y = some (!max)) ∧
    (∀ (max first : Bool) (x : FVal), x ≠ .nan → minChoice max first .nan x = some false ∧ minChoice max first x .nan = some true)) ∧
  (∀ r, r ∈ fmtRows →
    let F := fmtOf r.code
    let half := 2 ^ (r.eb + r.fb)
    let special := fun (c : Nat) => r.code ∈ [0, 1, 2, 3, 5] ∧ c % half / 2 ^ r.fb = 2 ^ r.eb - 1
    let infinite := fun (b : FmtBits) => r.code ≤ 3 ∨ (r.code = 5 ∧ b.e5m2Inf = true)
    let isMax := fun (x : Rounded) (neg : Bool) => x.sat = true ∧ (∃ m e, x.val = .fin neg m e) ∧ x.val.mag = r.max
    (∀ c, c < 2 * half →
      let neg := decide (half ≤ c)
      (special c → F.decode c = if c % 2 ^ r.fb = 0 then .inf neg else .nan) ∧
      (r.code = 4 → c % half = 0x7F → F.decode c = .nan) ∧
      (¬special c → ¬(r.code = 4 ∧ c % half = 0x7F) →
        (∃ m e, F.decode c = .fin neg m e) ∧ r.holds (c % half) (F.decode c).mag) ∧
      F.encode (F.decode c) = if F.decode c = .nan then r.nan else c) ∧
    (∀ (b : FmtBits) (mode : Nat) (neg : Bool) (m : Nat) (e : Int), m ≠ 0 → mode ≤ 4 →
      let q := (FVal.fin neg m e).mag
      let x := F.rnd b mode (.fin neg m e)
      (r.over mode neg q →
        (infinite b → if towardsZero mode neg then isMax x neg else x = ⟨.inf neg, false⟩) ∧
        (r.code = 4 → b.e4m3Nan = true → x = ⟨.nan, false⟩) ∧
        (¬infinite b → ¬(r.code = 4 ∧ b.e4m3Nan = true) → isMax x neg)) ∧
      (¬r.over mode neg q → x.sat = false ∧ (∃ y g, x.val = .fin neg y g) ∧
        ∃ c v, r.rounds mode neg q c v ∧
          x.val.mag = if b.ftz = true ∧ r.code ∈ [0, 2, 3] ∧ v < 2 ^ (1 - (r.bias : Int)) then 0 else v)) ∧
    ∀ (b : FmtBits) (mode : Nat) (neg : Bool) (e : Int),
      F.rnd b mode (.fin neg 0 e) = ⟨fzero neg, false⟩ ∧ F.rnd b mode .nan = ⟨.nan, false⟩ ∧
      (infinite b → F.rnd b mode (.inf neg) = ⟨.inf neg, false⟩) ∧
      (r.code = 4 → b.e4m3Nan = true → F.rnd b mode (.inf neg) = ⟨.nan, false⟩) ∧
      (¬infinite b → ¬(r.code = 4 ∧ b.e4m3Nan = true) → isMax (F.rnd b mode (.inf neg)) neg))

/-- R384-R390: conversions and tag words.  R258: the scale of a quantised block is E of its largest magnitude over
the format's largest exponent, clamped, and an element is the source over the scale, rounded RNE and saturated;
a block with a special value takes scale 0xFF and +0 elements, and one of zeros scale 0 and zeros. -/
def Obligations.LaneConversionResults : Prop :=
  (∀ (s : State) (f : LaneFields), s.fileOk f = true → s.g.lfmt.extractLsb' 6 6 = 0#6 →
    let g := s.g
    let t := f.ty.toNat
    let wide := if f.ty = 1 then 2 else 1
    let mode := if f.rnd = 7 then (g.lfmt.extractLsb' 0 3).toNat else f.rnd.toNat
    let conv := fun (x : TVal) (F : Fmt) =>
      let r := F.rnd (fmtBits g.lfmt) mode x.v
      (F.encode r.val, tagSteps F x.v r (min x.s F.p))
    let out := fun (r : Nat × Nat) => ({ bits := r.1, tag := r.2 } : LaneOut)
    ((Instr.cvt f).wf = true → SetsLanes (.cvt f) s f wide fun i =>
      if t = 0xE then { bits := toE8m0 (g.cvtSource f f.a i f.sub.toNat).v } else out (conv (g.cvtSource f f.a i f.sub.toNat) (fmtOf t))) ∧
    ((Instr.cvti f).wf = true → SetsLanes (.cvti f) s f wide fun i =>
      if 0xA ≤ t then
        { bits := (BitVec.ofInt 32 (toIntSat mode (intRange t).1 (intRange t).2 (g.cvtSource f f.a i f.sub.toNat).v)).toNat }
      else out (conv ⟨ofInt (g.cvtInt f f.a i f.sub.toNat) 0, 63⟩ (fmtOf t))) ∧
    ((Instr.pack f).wf = true → SetsLanes (.pack f) s f 1 fun i =>
      let lo := conv (g.cvtSource f f.a i 0) (fmtOf t)
      let hi := conv (g.cvtSource f f.b i 0) (fmtOf t)
      { bits := lo.1 + hi.1 * 2 ^ 16, tag := min lo.2 hi.2 }) ∧
    ((Instr.unpk f).wf = true → SetsLanes (.unpk f) s f 1 fun i =>
      let p := g.readPair f f.a i t
      let y := (fmtOf t).flushSource (fmtBits g.lfmt) ((fmtOf t).decode (if f.sub = 0 then p.1 else p.2))
      { bits := fp32.encode y, tag := tagSteps fp32 y ⟨y, false⟩ (g.sourceTag f.a i (fmtOf t).p) }) ∧
    ((Instr.mxq f).wf = true → SetsLanes (.mxq f) s f 2 fun i =>
      g.mxqLane f (quantBlock t (g.mxqSources f)).1 (quantBlock t (g.mxqSources f)).2 i) ∧
    ((Instr.tagq f).wf = true → SetsLanes (.tagq f) s f 1 fun i => { bits := g.tagOf f f.a i }) ∧
    ((Instr.tagg f).wf = true → SetsLanes (.tagg f) s f 1 fun i => { bits := b2n (decide (g.readInt f f.b i 1 ≤ g.tagOf f f.a i)) }) ∧
    ((Instr.tagm f).wf = true → SetsLanes (.tagm f) s f wide fun i =>
      { bits := g.tagBits f f.a i, tag := min (g.tagOf f f.a i) (g.tagOf f f.b i) }) ∧
    ((Instr.tags f).wf = true → g.tagsLanes f = 0 → SetsLanes (.tags f) s f wide fun i =>
      { bits := g.tagBits f f.a i, tag := min (g.readInt f f.b i 1) (fmtOf t).p })) ∧
  (∀ (code : Nat) (top : Int) (xs : List FVal), (code, top) ∈ [(4, 8), (5, 15), (6, 2), (7, 4), (8, 2), (9, (6 : Int))] →
    xs ≠ [] →
    let q := quantBlock code xs
    let zero := fun (x : FVal) => ∃ n e, x = .fin n 0 e
    q.2.length = xs.length ∧
    ((∃ x, x ∈ xs ∧ ∀ n m e, x ≠ .fin n m e) → q.1 = 0xFF ∧ ∀ y, y ∈ q.2 → y.val = fzero false) ∧
    ((∀ x, x ∈ xs → zero x) → q.1 = 0 ∧ ∀ (i : Nat) (n : Bool) (e : Int), xs[i]? = some (.fin n 0 e) →
      (q.2[i]?).map (·.val) = some (fzero n)) ∧
    (∀ (big : FVal) (E : Int), (∀ x, x ∈ xs → ∃ n m e, x = .fin n m e) → big ∈ xs → (∀ x, x ∈ xs → x.mag ≤ big.mag) →
      (2 : Rat) ^ E ≤ big.mag → big.mag < 2 ^ (E + 1) →
      let sc := max (-127) (min 127 (E - top))
      (q.1 : Int) = sc + 127 ∧
      ∀ (i : Nat) (n : Bool) (m : Nat) (e : Int), xs[i]? = some (.fin n m e) → ∃ y, q.2[i]? = some y ∧
        (code ≤ 8 → y = (fmtOf code).rnd {} 0 (.fin n m (e - sc))) ∧
        (code = 9 → ∃ k : Int, y.val.mag = (k.natAbs : Rat) ∧ (∃ m' e', y.val = .fin (if k = 0 then n else decide (k < 0)) m' e') ∧
          let v : Rat := (if n then -1 else 1) * (FVal.fin n m (e - sc)).mag
          if (255 : Rat) / 2 ≤ v then k = 127 else if v < -257 / 2 then k = -128
          else (k : Rat) - 1 / 2 ≤ v ∧ v ≤ k + 1 / 2 ∧ ((k : Rat) - 1 / 2 = v ∨ v = k + 1 / 2 → k % 2 = 0))))

/-- R143, R265, R273: with a significance threshold, a checked word writes its results and then traps where the tag of an
executing lane that is no helper lies below it; TRAPLANES names those lanes, and DETAIL their lowest tag and the threshold.
Where no lane falls below it, the word completes.  FMIN and FMAX copy a tag, which counts as at most the format's
precision. -/
def Obligations.SignificanceTrap : Prop :=
  ∀ (s : State) (f : LaneFields), s.fileOk f = true → s.g.inHandler = false → s.g.tx.active = 0 →
    let g := s.g
    let b := fmtBits g.lfmt
    let mode := if f.rnd = 7 then (g.lfmt.extractLsb' 0 3).toNat else f.rnd.toNat
    let n := if f.ty = 1 then 2 else 1
    let theta := (g.lfmt.extractLsb' 6 6).toNat
    let checked := fun (i : Instr) (n cap : Nat) (out : Nat → LaneOut) => i.wf = true →
      let m := maskOf fun j => lane (g.active f.guard) j && !lane g.helpers j && decide (min (out j).tag cap < theta)
      (m = 0 → SetsLanes i s f n out) ∧
      (m ≠ 0 → Gives i s fun t => ∃ h x, Trapped s t { h with lpc := g.lpc + 1, lwait := none } x ∧
        LaneRegs g h f n out ∧ h = { g with v := h.v, o := h.o, l := h.l } ∧
        x.cause = causeSigtrap ∧ x.lanes = m ∧ x.pc = BitVec.ofNat 64 g.lpc ∧ x.control = false ∧ x.tx = false ∧ x.info2 = 0 ∧
        x.detail.toNat / 64 = theta ∧ (∀ j, lane m j = true → x.detail.toNat % 64 ≤ (out j).tag) ∧
        ∃ j, lane m j = true ∧ x.detail.toNat % 64 = (out j).tag)
    let float := fun (i : Instr) (srcs : List Operand) (op : ElemOp) => checked i n 63 fun j => g.floatLane f srcs j op
    let trans := fun (i : Instr) (t : Trans) => float i [f.a] fun F xs =>
      let e := t.value (BitVec.ofNat 32 (F.encode (tval xs 0).v)) mode g.lfmt (tval xs 0).v
      ruleElem F b mode e (if e.isZero && !(t.approx (tval xs 0).v).2 then 0 else min ((tval xs 0).s - 1) (F.p - 2))
    let comb := fun (ls : List Nat) => match ls with
      | [] => redIdentity f
      | j :: rest => rest.foldl (fun x i => g.redOp f x (g.redSrc f i)) (g.redSrc f j)
    let js := lanesOf (g.cur &&& g.guardMask f.guard)
    let out := fun (r : Nat × Nat) => ({ bits := r.1, tag := r.2 } : LaneOut)
    theta ≠ 0 →
    float (.fadd f) [f.a, f.b] (fun F xs => sumElem F b mode (tval xs 0) (tval xs 1)) ∧
    float (.fsub f) [f.a, f.b] (fun F xs => sumElem F b mode (tval xs 0) ⟨(tval xs 1).v.negate, (tval xs 1).s⟩) ∧
    float (.fmul f) [f.a, f.b] (fun F xs =>
      ruleElem F b mode (fmul (tval xs 0).v (tval xs 1).v) (tagMul F.p (tval xs 0).s (tval xs 1).s)) ∧
    float (.ffma f) [f.a, f.b, f.c] (fun F xs =>
      sumElem F b mode ⟨fmul (tval xs 0).v (tval xs 1).v, tagMul F.p (tval xs 0).s (tval xs 1).s⟩ (tval xs 2)) ∧
    float (.frcp f) [f.a] (fun F xs => ruleElem F b mode (frcp (tval xs 0).v) (tagMul F.p (tval xs 0).s F.p)) ∧
    float (.frsq f) [f.a] (fun F xs =>
      ruleElem F b mode (frsq (tval xs 0).v) (tagMul F.p (min F.p ((tval xs 0).s + 1)) F.p)) ∧
    float (.fsqrt f) [f.a] (fun F xs =>
      let x := tval xs 0
      ruleElem F b mode (fsqrt x.v) (if x.v.isZero && decide (x.s < F.p) then x.s else min F.p (x.s + 1))) ∧
    float (.frnd f) [f.a] (fun F xs =>
      let r := F.rnd b mode (frndInt mode (tval xs 0).v)
      (F.encode r.val, if r.val.isZero then (if (tval xs 0).v.isNZ then 0 else min (tval xs 0).s F.p)
        else tagSteps F (frndInt mode (tval xs 0).v) r (tagAdd F.p r.val.E [tval xs 0]))) ∧
    trans (.fexp2 f) .exp2 ∧ trans (.flog2 f) .log2 ∧ trans (.ftanh f) .tanh ∧ trans (.fsin f) .sin ∧
    trans (.fcos f) .cos ∧
    checked (.fmin f) n (fmtOf f.ty.toNat).p (s.minLane f false) ∧
    checked (.fmax f) n (fmtOf f.ty.toNat).p (s.minLane f true) ∧
    (f.ty ≠ 0xE → checked (.cvt f) n 63 fun i => out (g.convertTo (fmtOf f.ty.toNat) mode (g.cvtSource f f.a i f.sub.toNat))) ∧
    (f.ty.toNat < 0xA → checked (.cvti f) n 63 fun i =>
      out (g.convertTo (fmtOf f.ty.toNat) mode ⟨ofInt (g.cvtInt f f.a i f.sub.toNat) 0, 63⟩)) ∧
    checked (.pack f) 1 63 (fun i =>
      let lo := g.convertTo (fmtOf f.ty.toNat) mode (g.cvtSource f f.a i 0)
      let hi := g.convertTo (fmtOf f.ty.toNat) mode (g.cvtSource f f.b i 0)
      { bits := lo.1 + hi.1 * 2 ^ 16, tag := min lo.2 hi.2 }) ∧
    checked (.unpk f) 1 63 (fun i =>
      let p := g.readPair f f.a i f.ty.toNat
      let y := (fmtOf f.ty.toNat).flushSource b ((fmtOf f.ty.toNat).decode (if f.sub = 0 then p.1 else p.2))
      { bits := fp32.encode y, tag := tagSteps fp32 y ⟨y, false⟩ (g.sourceTag f.a i (fmtOf f.ty.toNat).p) }) ∧
    (f.ty ≠ 9 → checked (.mxq f) 2 63 fun i =>
      g.mxqLane f (quantBlock f.ty.toNat (g.mxqSources f)).1 (quantBlock f.ty.toNat (g.mxqSources f)).2 i) ∧
    (f.sub.toNat % 8 = 0 →
      checked (.qred f) n 63 (fun i =>
        let q := i / 4 * 4
        out (g.redOp f (g.redOp f (g.redSrc f q) (g.redSrc f (q + 1)))
          (g.redOp f (g.redSrc f (q + 2)) (g.redSrc f (q + 3))))) ∧
      checked (.gred f) n 63 (fun _ => out (comb js)) ∧
      checked (.gscan f) n 63 fun i =>
        out (comb (js.filter fun j => if f.sub.getLsbD 3 then decide (j < i) else decide (j ≤ i))))

/-! ## Lane words: flow, masks, exchange, memory, transactions and tiles (R391-R415) -/

/-- R135, R236, R391-R393: the words that steer the current path; BRK and CONT act at the innermost LOOP entry and
clear their lanes from the entries above it.  R124, R125, R135, R144, R239, R393-R395: EXIT, which in a handler
block clears its lanes from the trap slot too, LEND, YIELD and NOP. -/
def Obligations.LaneFlowResults : Prop :=
  (∀ (s : State) (f : LaneFields), s.fileOk f = true →
    let g := s.g
    let t := maskOf fun i => lane (g.cur &&& g.guardMask f.guard) i && ((f.sub == 1) == (g.readInt f f.a i 1 == 0))
    let mask := BitVec.ofNat 32 (f.imm.toNat / 2 ^ 16 % 2 ^ 12)
    let merged := fun (old : Word32) => (old &&& ~~~mask) ||| (f.imm &&& mask)
    let legal := fun (x : Word32) => x.toNat % 8 ≤ 4
    ((Instr.laneIf f).wf = true → g.stack.length < 32 → legal (merged g.lfmt) → LaneBecame (.laneIf f) s { g with
      cur := g.cur &&& t, lfmt := merged g.lfmt
      stack := { fmt := g.lfmt, kind := .ifThen, head := 0, pend := g.cur &&& ~~~t, outer := g.cur } :: g.stack }) ∧
    ((Instr.laneIf f).wf = true → g.stack.length < 32 → ¬legal (merged g.lfmt) → Faults (.laneIf f) s causeIllegalOp) ∧
    (legal (merged g.lfmt) → 32 ≤ g.stack.length → Faults (.laneIf f) s causeMaskOvf) ∧
    (∀ e st, g.stack = e :: st → e.kind = .ifThen → legal (merged e.fmt) → LaneBecame (.laneElse f) s { g with
      cur := e.pend, lfmt := merged e.fmt, stack := { e with kind := .ifElse, pend := 0 } :: st }) ∧
    (∀ e st, g.stack = e :: st → e.kind ≠ .ifThen → Faults (.laneElse f) s causeMaskUnbal) ∧
    (∀ e st, g.stack = e :: st → e.kind ≠ .loop → LaneBecame (.endif f) s { g with cur := e.outer, lfmt := e.fmt, stack := st }) ∧
    (∀ e st, g.stack = e :: st → e.kind = .loop → Faults (.endif f) s causeMaskUnbal) ∧
    (g.stack = [] → Faults (.laneElse f) s causeMaskUnbal ∧ Faults (.endif f) s causeMaskUnbal ∧
      Faults (.endl f) s causeMaskUnbal) ∧
    (∀ e st, g.stack = e :: st → e.kind ≠ .loop → Faults (.endl f) s causeMaskUnbal) ∧
    (g.stack.length < 32 → g.lpc + 1 < 2 ^ 17 → LaneBecame (.laneLoop f) s { g with
      stack := { fmt := g.lfmt, kind := .loop, head := BitVec.ofNat 17 (g.lpc + 1), pend := 0, outer := g.cur } :: g.stack }) ∧
    (32 ≤ g.stack.length → Faults (.laneLoop f) s causeMaskOvf) ∧
    (∀ above e st, g.stack = above ++ e :: st → (∀ y, y ∈ above → y.kind ≠ .loop) → e.kind = .loop →
      let cut := above.map fun y => { y with outer := y.outer &&& ~~~t, pend := y.pend &&& ~~~t }
      let outside := g.tx.depth ≠ 0 ∧ t &&& g.tx.active ≠ 0 ∧ st.length < g.tx.base
      (¬outside →
        LaneBecame (.laneBrk f) s { g with cur := g.cur &&& ~~~t, stack := cut ++ e :: st } ∧
        LaneBecame (.cont f) s { g with cur := g.cur &&& ~~~t, stack := cut ++ { e with pend := e.pend ||| t } :: st }) ∧
      (outside → Faults (.laneBrk f) s causeMaskUnbal ∧ Faults (.cont f) s causeMaskUnbal)) ∧
    ((∀ y, y ∈ g.stack → y.kind ≠ .loop) → Faults (.laneBrk f) s causeMaskUnbal ∧ Faults (.cont f) s causeMaskUnbal) ∧
    (∀ e st, g.stack = e :: st → e.kind = .loop → g.cur ||| e.pend ≠ 0 → Gives (.endl f) s fun u => Became s u { g with
      cur := g.cur ||| e.pend, stack := { e with pend := 0 } :: st, lpc := e.head.toNat, lwait := none }) ∧
    (∀ e st, g.stack = e :: st → e.kind = .loop → g.cur ||| e.pend = 0 →
      LaneBecame (.endl f) s { g with cur := e.outer &&& g.live, lfmt := e.fmt, stack := st })) ∧
  (∀ (s : State) (f : LaneFields), s.fileOk f = true →
    let g := s.g
    let x := g.cur &&& g.guardMask f.guard
    let cut := fun (st : List MaskEntry) => st.map fun e => { e with outer := e.outer &&& ~~~g.cur, pend := e.pend &&& ~~~g.cur }
    let slot := if g.inHandler then g.trapSlot.map (fun y => { y with cur := y.cur &&& ~~~g.cur, stack := cut y.stack })
      else g.trapSlot
    (g.tx.active = 0 → g.tx.serial = false → g.live &&& ~~~g.cur ≠ 0 →
      Gives (.exit f) s fun t => OnlyActor s t ∧ t.g = { g.nextLane with
        live := g.live &&& ~~~g.cur, cur := 0, stack := cut g.stack, trapSlot := slot
        tx := { g.tx with rejoin := g.tx.rejoin &&& ~~~g.cur } }) ∧
    (g.tx.active = 0 → g.tx.serial = false → g.live &&& ~~~g.cur = 0 →
      Gives (.exit f) s fun t => t.g.live = 0 ∧ t.g.running = false ∧ t.g.lpc = g.lpc + 1 ∧ t.g.trapSlot = slot ∧ SameBytes s t) ∧
    (g.stack = [] → g.tx.depth = 0 → LaneBecame (.lend f) s { g with
      running := false, skip := 0, handlerBlock := if g.inHandler then none else g.handlerBlock }) ∧
    (g.stack ≠ [] ∨ g.tx.depth ≠ 0 → Faults (.lend f) s causeMaskUnbal) ∧
    (g.cq.length < 16 → f.sub = 1 → LaneBecame (.yield f) s { g with cq := g.cq ++ [
      BitVec.ofNat 64 (g.cur.toNat * 2 ^ 32 + (maskOf fun i => lane x i && g.readInt f f.a i 1 != 0).toNat)] }) ∧
    (∀ i, g.cq.length < 16 → f.sub = 0 → lowestLane x = some i → LaneBecame (.yield f) s { g with cq := g.cq ++ [
      BitVec.ofNat 64 (g.readInt f f.a i (if f.ty = 1 then 2 else 1))] }) ∧
    (g.cq.length < 16 → f.sub = 0 → lowestLane x = none → LaneBecame (.yield f) s { g with cq := g.cq ++ [0] }) ∧
    (16 ≤ g.cq.length → Faults (.yield f) s causeCqOvf) ∧
    LaneBecame (.laneNop f) s g)

/-- R132, R396, R397: the mask words and VOTE; m0 takes no value. -/
def Obligations.MaskResults : Prop :=
  ∀ (s : State) (f : LaneFields), s.fileOk f = true →
    let g := s.g
    let d := BitVec.ofNat 3 (f.imm.toNat % 8)
    let a := g.getM (BitVec.ofNat 3 (f.imm.toNat / 16 % 8))
    let b := g.getM (BitVec.ofNat 3 (f.imm.toNat / 256 % 8))
    let x := g.cur &&& g.guardMask f.guard
    let ballot := maskOf fun i => lane x i && g.readInt f f.a i 1 != 0
    let sets := fun (i : Instr) (v : Word32) => Gives i s fun t =>
      OnlyActor s t ∧ t.g = { g.nextLane with m := t.g.m } ∧
      ∀ r : BitVec 3, t.g.getM r = if r = 0 then 0xFFFFFFFF else if r = d then v else g.getM r
    sets (.mand f) (a &&& b) ∧ sets (.mor f) (a ||| b) ∧ sets (.mnot f) (~~~a) ∧
    (f.sub = 0 → sets (.vote f) ballot) ∧
    ((Instr.vote f).wf = true → f.sub = 1 → SetsLanes (.vote f) s f 1 fun _ => { bits := b2n (ballot != 0) }) ∧
    ((Instr.vote f).wf = true → f.sub = 2 → SetsLanes (.vote f) s f 1 fun _ => { bits := b2n (ballot == x) })

/-- R398-R402: exchanges take the value that the named lane held before the word; reductions and scans combine the
contributing lanes in ascending order.  That an exchange gives tag 0 for a source that stores none is deduced (log 12). -/
def Obligations.CrossLaneResults : Prop :=
  ∀ (s : State) (f : LaneFields), s.fileOk f = true → s.g.lfmt.extractLsb' 6 6 = 0#6 →
    let g := s.g
    let n := if f.ty = 1 then 2 else 1
    let take := fun (j : Nat) => ({ bits := g.readInt f f.a j n, tag := ((g.storedTag f.a j).getD 0).toNat } : LaneOut)
    let out := fun (r : RedVal) => ({ bits := r.1, tag := r.2 } : LaneOut)
    let js := lanesOf (g.cur &&& g.guardMask f.guard)
    let comb := fun (ls : List Nat) => match ls with
      | [] => redIdentity f
      | j :: rest => rest.foldl (fun x i => g.redOp f x (g.redSrc f i)) (g.redSrc f j)
    ((Instr.shfl f).wf = true → SetsLanes (.shfl f) s f n fun i => take (shflLane f.sub.toNat i (g.readInt f f.b i 1 % 32))) ∧
    ((Instr.qswp f).wf = true → SetsLanes (.qswp f) s f n fun i => take (Nat.xor i (f.sub.toNat + 1))) ∧
    ((Instr.qred f).wf = true → SetsLanes (.qred f) s f n fun i =>
      let q := i / 4 * 4
      out (g.redOp f (g.redOp f (g.redSrc f q) (g.redSrc f (q + 1))) (g.redOp f (g.redSrc f (q + 2)) (g.redSrc f (q + 3))))) ∧
    ((Instr.gred f).wf = true → SetsLanes (.gred f) s f n fun _ => out (comb js)) ∧
    ((Instr.gscan f).wf = true → SetsLanes (.gscan f) s f n fun i =>
      out (comb (js.filter fun j => if f.sub.getLsbD 3 then decide (j < i) else decide (j ≤ i))))

/-- R139, R166, R188, R403, R404, R406: LD and LDT outside a transaction fix their lanes' values at issue and join their
counters; a value on the non-coherent window is read later.  That the tag byte of an LDT is read at issue is the model's
choice (log 92). -/
def Obligations.LaneLoadResults : Prop :=
  ∀ (s u : State) (f : LaneFields) (p : LanePlan),
    let g := s.g
    let x := g.active f.guard
    let items := p.items
    let value := fun (y : LaneItem) => leNat (u.viewBytes g.team y.target.loc (itemBytes f y))
    let run : LaneRun := { got := items.map fun y => (y.lane, y.idx, value y) }
    let loads := fun (i : Instr) (acc : Nat → List LaneAccess) =>
      s.laneHold x true acc = none → s.planLanes x loadKind acc = (p, u) → p.fails = [] → p.aborts = [] →
      p.zero = [] → p.busy = false → s.lanesWait f loadKind items = false →
      (∀ y, y ∈ items → y.idx = 1 → value y < 64 ∧ (y.target.isNonCoherent = true → ∀ w, w ∈ u.pkg.posted →
        w.store.any (·.1 == s.actor) = true → w.sent = none)) →
      let late := items.filter fun y => y.target.isNonCoherent && y.idx == 0
      let now := (items.map (·.lane)).eraseDups.filter fun i => !late.any (·.lane == i)
      let fl : Flight := { land := now.flatMap (run.landing f)
                           late := late.map fun y => { loc := y.target.loc, len := memBytes f, op := .read
                                                       dest := .lane f y.lane (run.value y.lane 1)
                                                       addr := y.addr, lane := y.lane } }
      Gives i s fun t =>
        SameButWake (if items = [] then g else g.addLoad (items.map (·.target.isWindow)) fl).nextLane t.g ∧
        (∀ k, k ≠ s.actor → SameButWake (s.group k) (t.group k)) ∧ SameBytes u t
    s.mid = [] → s.limit = none → s.fileOk f = true → g.tx.active = 0 →
    loads (.ld f) (g.oneAccess f) ∧ loads (.ldt f) (g.twoAccesses f)

/-- R161, R166, R188, R403, R405, R406: ST and STT outside a transaction and a speculative region write each
executing lane's bytes at its addresses, a higher lane after a lower one, and nothing else, where no write of
the word changes the translation of a later one; a store to the non-coherent window is posted on its way to the
host (log 71).  That STT stores the tag byte 0 for a source that stores no tag is deduced (log 13).  R232: a
store of lanes with an open transaction to device memory publishes nothing: no byte of memory changes. -/
def Obligations.LaneStoreResults : Prop :=
  (∀ (s u : State) (f : LaneFields) (p : LanePlan),
    let g := s.g
    let x := g.active f.guard &&& ~~~g.helpers
    let items := p.items
    let stores := fun (i : Instr) (acc : Nat → List LaneAccess) (bytes : Nat → List (List Byte)) =>
      s.laneHold x false acc = none → s.planLanes x storeKind acc = (p, u) → p.fails = [] → p.aborts = [] →
      p.zero = [] → p.busy = false → s.lanesWait f storeKind items = false → s.plain →
      let held := items.foldl (fun (w : State) y => w.holdLine g.part y.target true) u
      let upTo := fun (k : Nat) =>
        (items.take k).foldl (fun (w : State) y => w.groupStore y.target g.seq ((bytes y.lane).getD y.idx [])) held
      (∀ (k : Nat) y, items[k]? = some y →
        (upTo k).check g.team y.addr (itemBytes f y) .write false = .ok y.target [] 0 0) →
      let one := fun (y : LaneItem) => (y.target.loc, (bytes y.lane).getD y.idx [])
      let writes := (items.filter fun y => !y.target.isNonCoherent).map one
      Gives i s fun t =>
        t.g.lpc = g.lpc + 1 ∧ t.g.st.length = g.st.length + b2n (!items.isEmpty) ∧ t.g.v = g.v ∧ t.g.k = g.k ∧
        (∀ k, k ≠ s.actor → SameButWake (s.group k) (t.group k)) ∧
        t.pkg.posted = u.pkg.posted ++ ((items.filter (·.target.isNonCoherent)).map one).map (fun w =>
          { loc := w.1, bytes := w.2, store := some (s.actor, g.seq) }) ∧
        ∀ a, t.byteAt a =
          (writes.foldl (fun (b : Byte) (w : Nat × List Byte) =>
            if w.1 ≤ a ∧ a < w.1 + w.2.length then w.2.getD (a - w.1) 0 else b) (u.byteAt a))
    s.mid = [] → s.limit = none → s.fileOk f = true → g.tx.active = 0 →
    stores (.st f) (g.oneAccess f) (fun i => [leBytes (memBytes f) (g.memSrc f f.b i)]) ∧
    stores (.stt f) (g.twoAccesses f) fun i =>
      [leBytes (memBytes f) (g.memSrc f f.c i), [BitVec.ofNat 8 ((g.storedTag f.c i).getD 0).toNat]]) ∧
  (∀ (s u : State) (f : LaneFields) (p : LanePlan),
    let g := s.g
    let x := g.active f.guard &&& ~~~g.helpers
    s.mid = [] → s.limit = none → s.fileOk f = true → s.laneHold x false (g.oneAccess f) = none →
    s.planLanes x storeKind (g.oneAccess f) = (p, u) → p.fails = [] → p.busy = false → g.tx.serial = false →
    s.plain → s.lanesWait f storeKind p.items = false →
    (∀ y, y ∈ p.ok → lane g.tx.active y.1 = true ∧ lane u.g.tx.active y.1 = true ∧ ∀ z, z ∈ y.2 → ∃ pa, z.2 = .dev pa) →
    (∀ y y', y ∈ p.ok → y' ∈ p.aborts → y.1 ≠ y'.1) → (p.ok.map (·.1)).Nodup →
    Gives (.st f) s fun t => t.g.lpc = g.lpc + 1 ∧ SameBytes u t)

/-- R171-R173, R232, R311, R407, R408: outside a transaction and a speculative region an ATOM reads, computes and writes in
one step and returns the old value like a load's; adds of several lanes at one address combine into one atomic, which
stores the old value plus their sum, and each later lane gets the old value plus the sum of the lanes before it.  CAS of
one lane writes where the old value is B.  On the non-coherent window the host performs the operation later (R60, R188;
log 90), or refuses it with HOST_ABORT, which leaves nothing done (R9; log 93).  R160, R409: PREF delivers nothing. -/
def Obligations.LaneAtomicResults : Prop :=
  ∀ (s u : State) (f : LaneFields) (p : LanePlan) (i : Nat) (js : List Nat) (a : Word) (tgt : Target),
    let g := s.g
    let x := g.active f.guard &&& ~~~g.helpers
    let n := memBytes f
    let op := f.ty.toNat
    let w := u.syncFor tgt
    let old := leNat (w.viewBytes g.team tgt.loc n)
    let value := fun (j : Nat) => if op = 9 then g.readFloat f f.b j (if n = 8 then 1 else 0) else g.memSrc f f.b j
    let sum := fun (k : Nat) => (js.take (k - 1)).foldl (fun v j => atomicOp op n v (value j)) (value i)
    let lanes := js.zipIdx
    let held := (i :: js).foldl (fun (w : State) _ => w.holdLine g.part tgt true) u
    let ready := fun (loads nc : Bool) =>
      ((∀ c, c ∈ u.stores → hostBase ≤ c.1) ∨ held.check g.team a n .write nc = .ok tgt [] 0 0) ∧
      s.laneHold x loads (g.oneAccess f) = none ∧ s.planLanes x (atomicKind loads nc) (g.oneAccess f) = (p, u) ∧
      p.fails = [] ∧ p.aborts = [] ∧ p.zero = [] ∧ p.busy = false ∧
      p.ok = (i :: js).map (fun j => (j, [(a, tgt)])) ∧ s.lanesWait f (atomicKind loads nc) p.items = false
    let joins := fun (t : State) (ret : Bool) (land : List Landing) (late : List LateAccess) =>
      ∃ fl : Flight, fl.land = land ∧ fl.late = late ∧ fl.acq = (f.rnd.getLsbD 2 && tgt.isSystem) ∧
        t.g.lpc = g.lpc + 1 ∧ t.g.gl = (if ret && !tgt.isWindow then g.gl ++ [fl] else g.gl) ∧
        t.g.sp = (if ret && tgt.isWindow then g.sp ++ [fl] else g.sp) ∧ t.g.st = (if ret then g.st else g.st ++ [fl])
    let one := fun (j v : Nat) (tag : Tag) => landRegs f.dst j v tag (memRegs f)
    let does := fun (t : State) (p : Prop) =>
      if Config.atomicRefused s.free i then Faulted s t causeHostAbort ((i :: js).foldl (fun m j => m ||| laneBit j) 0) a (BitVec.ofNat 64 i)
      else p
    s.mid = [] → s.limit = none → s.fileOk f = true → g.tx.active = 0 → s.plain →
    (∀ ret : Bool, ret = !f.sub.getLsbD 3 → ready ret (op != 0 && op != 1) → (js = [] ∨ op = 0 ∨ op = 9) →
      let tag : Tag := if op = 9 then (if n = 8 then 53 else 24) else 0
      (tgt.isNonCoherent = false → Gives (.atom f) s fun t =>
        Stored w t tgt.loc (leBytes n (atomicOp op n old (sum (js.length + 1)))) ∧
        joins t ret (if ret then one i old tag ++ lanes.flatMap fun y => one y.1 (atomicOp op n old (sum (y.2 + 1))) tag
          else []) []) ∧
      (tgt.isNonCoherent = true → (op = 0 ∨ op = 1) → Gives (.atom f) s fun t => does t <|
        SameBytes u t ∧ joins t ret [] [{
          addr := a, lane := i, loc := tgt.loc, len := n
          op := if op = 1 then .swap (value i) else .add (sum (js.length + 1))
          dest := if ret then .lanes f ((i, 0) :: lanes.map fun y => (y.1, sum (y.2 + 1))) else .none }])) ∧
    (ready true false → js = [] →
      (tgt.isNonCoherent = false → old = g.memSrc f f.b i → Gives (.cas f) s fun t =>
        Stored w t tgt.loc (leBytes n (g.memSrc f f.c i)) ∧ joins t true (one i old 0) []) ∧
      (tgt.isNonCoherent = false → old ≠ g.memSrc f f.b i → Gives (.cas f) s fun t =>
        SameBytes w t ∧ joins t true (one i old 0) []) ∧
      (tgt.isNonCoherent = true → Gives (.cas f) s fun t => does t <|
        SameBytes u t ∧ joins t true [] [{
          addr := a, lane := i, loc := tgt.loc, len := n, op := .cas (g.memSrc f f.b i) (g.memSrc f f.c i)
          dest := .lanes f [(i, 0)] }])) ∧
    (∀ v : State, (lanesOf (g.active f.guard)).foldl
        (fun (r : Option State) i => r.bind fun s => s.prefLane (s.g.memAddr f i)) (some s) = some v →
      Gives (.pref f) s fun t => SameButWake g.nextLane t.g ∧ SameBytes v t ∧
        ∀ k, k ≠ s.actor → SameButWake (s.group k) (t.group k))

/-- R229-R231, R235, R244, R245, R411-R414: the transaction words.  R240, R241: an outermost XEND with one lane
whose logged values still stand publishes that lane's writes. -/
def Obligations.TransactionResults : Prop :=
  (∀ (s : State) (f : LaneFields), s.fileOk f = true → s.mid = [] → s.limit = none →
    let g := s.g
    let d := BitVec.ofNat 3 (f.imm.toNat % 8)
    let silent := bit s.p.dbg.ctl 1 = false
    (s.plain → g.tx.depth = 0 → Gives (.xbegin f) s fun t => OnlyActor s t ∧ t.g.tx.depth = 1 ∧ t.g.tx.active = g.cur ∧
      t.g.tx.base = g.stack.length ∧ t.g.tx.tgt = BitVec.ofNat 17 f.imm.toNat ∧ t.g.tx.rejoin = 0 ∧ t.g.tx.reads = [] ∧
      t.g.tx.writes = [] ∧ t.g = { g.nextLane with tx := t.g.tx }) ∧
    (s.plain → 0 < g.tx.depth → g.tx.depth < 7 →
      LaneBecame (.xbegin f) s { g with tx := { g.tx with depth := g.tx.depth + 1 } }) ∧
    (s.plain → 7 ≤ g.tx.depth → Faults (.xbegin f) s causeTxNest) ∧
    (¬s.plain → Faults (.xbegin f) s causeRegionEffect) ∧
    (s.plain → g.tx.depth = 0 → g.cur = 0 → Gives (.xbeginS f) s fun t => t.g.tx.depth = 1 ∧ t.g.lpc = g.lpc + 1) ∧
    (g.tx.depth ≠ 0 → Faults (.xbeginS f) s causeTxNest) ∧
    (∀ low, s.plain → g.tx.depth = 0 → lowestLane g.cur = some low → s.actor ∉ s.p.serialQ →
      Gives (.xbeginS f) s fun t => t.g.cur = laneBit low ∧ t.g.lwait = some .txCommit ∧ t.g.lpc = g.lpc ∧
        t.p.serialQ = s.p.serialQ ++ [s.actor] ∧ SameBytes s t) ∧
    (g.tx.depth = 0 → Faults (.xend f) s causeTxNone ∧ Faults (.xabort f) s causeTxNone) ∧
    (silent → g.tx.depth = 1 → g.stack.length = g.tx.base → g.lpc = g.tx.tgt.toNat → g.tx.serial = true →
      s.p.serialHolder = some s.actor →
      Gives (.xend f) s fun t => t.g.tx.depth = 0 ∧ t.g.tx.serial = false ∧ t.g.cur = g.cur ||| g.tx.rejoin ∧
        t.g.lpc = g.lpc + 1 ∧ t.g.getM d = (if d = 0 then 0xFFFFFFFF else g.tx.active) ∧ t.p.serialHolder = none ∧
        SameBytes s t) ∧
    (silent → g.tx.depth = 1 → g.tx.serial = false → g.tx.active = 0 → g.stack.length = g.tx.base → g.lpc = g.tx.tgt.toNat →
      Gives (.xend f) s fun t => t.g.tx.depth = 0 ∧ t.g.cur = g.cur ||| g.tx.rejoin ∧ t.g.lpc = g.lpc + 1 ∧
        t.g.getM d = (if d = 0 then 0xFFFFFFFF else 0) ∧ SameBytes s t) ∧
    (2 ≤ g.tx.depth → Gives (.xend f) s fun t => t.g.tx.depth = g.tx.depth - 1 ∧ t.g.lpc = g.lpc + 1 ∧
      t.g.getM d = (if d = 0 then 0xFFFFFFFF else g.tx.active) ∧ SameBytes s t) ∧
    (0 < g.tx.depth → g.tx.serial = false →
      let x := g.execMask &&& g.guardMask f.guard &&& g.tx.active
      Gives (.xabort f) s fun t => t.g.tx.active = g.tx.active &&& ~~~x ∧ t.g.tx.rejoin = g.tx.rejoin ||| x ∧
        t.g.cur = g.cur &&& ~~~x ∧ t.g.lpc = g.lpc + 1 ∧ t.g.v = g.v ∧ SameBytes s t ∧
        ∀ i, i < 32 → lane x i = true → t.g.tx.xc.get 0 i =
          BitVec.ofNat 32 (f.imm.toNat % 256 * 65536 + g.tx.depth % 8 * 256 + 6)) ∧
    (0 < g.tx.depth → g.tx.serial = true → LaneBecame (.xabort f) s g) ∧
    ((Instr.xstat f).wf = true → SetsLanes (.xstat f) s f 1 fun i => { bits := (g.tx.xc.get 0 i).toNat })) ∧
  (∀ (s : State) (f : LaneFields) (i : Nat) (e : LogEntry),
    let g := s.g
    s.mid = [] → s.limit = none → bit s.p.dbg.ctl 1 = false →
    g.tx.depth = 1 → g.tx.serial = false → i < 32 → g.tx.active = laneBit i → g.stack.length = g.tx.base →
    g.lpc = g.tx.tgt.toNat → s.p.serialHolder = none → g.writeLog i = [e] → e.bytes.length = 8 →
    (∀ y, y ∈ g.readLog i → s.bytesAt y.granule 8 = y.bytes) →
    Gives (.xend f) s fun t =>
      t.g.tx.depth = 0 ∧ t.g.tx.active = 0 ∧ t.g.cur = g.cur ||| g.tx.rejoin ∧ t.g.lpc = g.lpc + 1 ∧
      ∀ a, t.byteAt a = if e.granule ≤ a ∧ a < e.granule + 8 ∧ e.mask.getLsbD (a - e.granule) = true
        then e.bytes.getD (a - e.granule) 0 else s.byteAt a)

/-- R206, R415: TLD brings a strip of a slot into eight registers, and TST takes one out of them. -/
def Obligations.TileFragmentResults : Prop :=
  ∀ (s : State) (f : LaneFields), s.fileOk f = true →
    let g := s.g
    let z := f.imm.toNat % 32
    let strip := f.imm.toNat / 256 % 16
    let x := g.active f.guard
    z < s.t.type.zslots → s.t.openRegion = none →
    (f.dst.isBase 8 = true → Gives (.tld f) s fun t =>
      OnlyActor s t ∧ t.g = { g.nextLane with v := t.g.v, o := t.g.o } ∧
      (∀ i n, i < 32 → n < 8 → lane x i = true →
        let e := (s.t.slot z).elem ((4 * strip + n / 2) * 64 + 2 * i + n % 2)
        t.g.reg f.dst n i = ⟨e.bits, e.tag⟩) ∧
      (∀ r i, i < 32 → (lane x i = false ∨ inRun f.dst 8 false r = false) →
        t.g.v.get {} (r * 32 + i) = g.v.get {} (r * 32 + i)) ∧
      (∀ r i, i < 32 → (lane x i = false ∨ inRun f.dst 8 true r = false) →
        t.g.o.get {} (r * 32 + i) = g.o.get {} (r * 32 + i))) ∧
    (Gives (.tst f) s fun t =>
      t.g = g.nextLane ∧ SameBytes s t ∧ (t.t.slot z).written = true ∧ (t.t.slot z).status = (s.t.slot z).status ∧
      ∀ i n, i < 32 → n < 8 → lane (x &&& ~~~g.helpers) i = true →
        let e := (t.t.slot z).elem ((4 * strip + n / 2) * 64 + 2 * i + n % 2)
        e.bits = (g.reg f.a n i).bits ∧ e.tag.toNat = min 24 (g.reg f.a n i).tag.toNat)

/-! ## Machine events: package, host and partitions (chapters 01 and 02) -/

/-- R26, R28, R36, R39, R40: always-on power starts the nanosecond counter, which a device reset leaves alone; the reset
clears the machine, trains the links, and ends in recovery unless every image is signed and not older than the fuse field
says; a core that finishes its test is repaired or fenced.  That a device reset leaves the bytes of memory alone, and that
the modules that come up are an input of the event, is the model's choice (log 63). -/
def Obligations.PowerAndBringUp : Prop :=
  ∀ s : State,
    (Gives .alwaysOnPower s fun t => t = { s with pkg := t.pkg } ∧ t.pkg.ns = 0 ∧ t.pkg.links = s.pkg.links) ∧
    (Gives .networkReset s fun t => t = { s with pkg := t.pkg } ∧ t.pkg.netActive = s.pkg.netPorts) ∧
    (∀ images modules tiers, Gives (.deviceReset images modules tiers) s fun t =>
      t.pkg.ns = s.pkg.ns ∧ t.pkg.fuse = s.pkg.fuse ∧ SameBytes s t ∧ (∀ d, t.bistDone d = false) ∧
      (t.pkg.recovery = false ↔ ∀ x, x ∈ [images.apex, images.scalar, images.network] → x.signed = true ∧ s.pkg.fuse.toNat ≤ x.version) ∧
      (∀ l, l < 8 → t.pkg.modules l = min (modules.getD l 0) (if l < 4 then 24 else 6)) ∧
      (∀ p, t.part p = {}) ∧ (∀ k, t.team k = {}) ∧ (∀ k, t.group k = {}) ∧ ∀ c, t.core c = {}) ∧
    ∀ core rows, core < 256 → s.pkg.recovery = false → core ∉ (s.bistDie (dieOf core)).finished →
      Gives (.bistComplete core rows) s fun t =>
        let die := dieOf core
        let inBank := fun (a b : Nat) => (rows.filter fun x => x.1 == a && x.2.1 == b).length
        t = { s with pkg := t.pkg } ∧ (t.bistDie die).finished = core :: (s.bistDie die).finished ∧
        (∀ d, d ≠ die → t.bistDie d = s.bistDie d) ∧
        (∀ a b, 4 < inBank a b → bit (t.pkg.fence.get 0 die) (core % 64) = true) ∧
        ((∀ a b, inBank a b ≤ 4) → t.pkg.fence = s.pkg.fence) ∧ (rows = [] → t.pkg.repair = s.pkg.repair)

/-- R12, R14, R58, R62, R63, R75, R272: a replayed flit is counted; a failing module leaves its link one fewer, and the last
one halts every partition that exists; a failing host link poisons the lines that the host agent holds; a snoop takes or
cleans one; an uncorrectable error halts its context.  That a failing host link loses the writes posted on it is the
model's choice (log 71). -/
def Obligations.LinkAndErrorEvents : Prop :=
  ∀ s : State,
    (Gives .flitCrcFail s fun t => t = { s with pkg := { s.pkg with flits := s.pkg.flits + 1 } }) ∧
    (∀ link, 0 < s.pkg.modules link → Gives (.moduleFail link) s fun t =>
      t.pkg.modules link = s.pkg.modules link - 1 ∧ (∀ j, j ≠ link → t.pkg.modules j = s.pkg.modules j) ∧
      (1 < s.pkg.modules link → t = { s with pkg := t.pkg }) ∧
      (s.pkg.modules link = 1 → ∀ p, p < 8 → (s.part p).state ≠ .free →
        HaltRaised s t p causeFabricLoss (s.agentRecord 5 causeFabricLoss 0 (BitVec.ofNat 64 link) 0))) ∧
    (s.pkg.hostUp = true → Gives .hostLinkFail s fun t =>
      t.pkg.hostUp = false ∧ t.pkg.hostHeld = [] ∧ t.pkg.posted = [] ∧ (∀ a, a < hostBase → t.byteAt a = s.byteAt a) ∧
      (∀ l, (SMap.find? s.pkg.hostHeld l).isSome = true → (SMap.find? t.pkg.poison l).isSome = true) ∧
      (∀ l, SMap.find? s.pkg.hostHeld l = none → SMap.find? t.pkg.poison l = SMap.find? s.pkg.poison l) ∧
      ((∀ x, x ∈ s.pkg.hostHeld → x.2.dirty = false) → SameBytes s t)) ∧
    (s.pkg.hostUp = false → Gives .hostLinkRetrain s fun t => t = { s with pkg := { s.pkg with hostUp := true } }) ∧
    (∀ line keep x, SMap.find? s.pkg.hostHeld line = some x → Gives (.hostSnoop line keep) s fun t =>
      t = { s with pkg := t.pkg } ∧ (∀ j, j ≠ line → SMap.find? t.pkg.hostHeld j = SMap.find? s.pkg.hostHeld j) ∧
      SMap.find? t.pkg.hostHeld line = if keep = true then some { x with dirty := false } else none) ∧
    (∀ k addr array bank row, (s.team (s.group k).team).phase = .resident → (s.group k).retired = false →
      Gives (.eccUe k addr array bank row) s fun t =>
        Faulted { s with actor := k } t causeEccUe 0 addr (word [at_ (array % 8) 0, at_ (bank % 32) 3, at_ (row % 1024) 8])) ∧
    ∀ p cls entry, (s.part p).state = .run → entry < ((s.part p).queues.get [] cls).length →
      Gives (.queueEcc p cls entry) s fun t => (∀ k, SameButWake (s.group k) (t.group k)) ∧
        HaltRaised s t p causeQueueEcc
          (s.agentRecord 4 causeQueueEcc 0 (word [at_ (cls % 8) 0, at_ (entry % 8192) 3]) 0)

/-- R37, R38: the SPDM responder answers a request once the negotiation stands where the request needs it, and what
needs a signature or a certificate only where the part attests.  What the responder signs, and that the fuse field is
measured as eight bytes, the lowest first, are the model's choices (log 11).  That the three requests of the negotiation come
first and in this order, that an early one is answered with ERROR, and so is one for an index without a block or one that needs
a certificate while the part does not attest, is PRESUMED (log 9), and that a recovery boot does not attest the model's choice
(log 102). -/
def Obligations.SpdmAnswers : Prop :=
  ∀ s : State,
    let p := s.pkg
    let chain := Config.certificateChain p.boots
    let all := [(1, Config.imageHash p.boots 1), (2, Config.imageHash p.boots 2), (3, Config.imageHash p.boots 3),
      (4, Config.sha384 (leBytes 8 p.fuse.toNat))]
    let answers := fun (i : Instr) (stage : Nat) (a : SpdmAnswer) =>
      Gives i s fun t => t = { s with pkg := { p with spdm := a, spdmStage := stage } }
    answers .getVersion 1 (.version [0x12]) ∧
    (1 ≤ p.spdmStage → answers .getCapabilities (max 2 p.spdmStage) (.capabilities true true true false)) ∧
    (2 ≤ p.spdmStage → answers .negotiateAlgorithms (max 3 p.spdmStage) (.algorithms true true)) ∧
    (p.spdmStage = 0 → answers .getCapabilities 0 .error ∧ answers .negotiateAlgorithms 0 .error) ∧
    (3 ≤ p.spdmStage → p.attest = true →
      answers .getDigests p.spdmStage (.digests [Config.sha384 chain]) ∧
      (∀ off n, off ≤ chain.length → answers (.getCertificate off n) p.spdmStage
        (.certificate ((chain.drop off).take n) (chain.length - off - min n (chain.length - off)))) ∧
      (∀ nonce, ∃ summary sig, answers (.challenge nonce) p.spdmStage (.challengeAuth (Config.sha384 chain) summary sig) ∧
        sig = Config.aliasSign p.boots (nonce ++ leBytes 48 (Config.sha384 chain).toNat ++ leBytes 48 summary.toNat)) ∧
      (∀ nonce, answers (.getMeasurements 0xFF false nonce) p.spdmStage (.measurements all none)) ∧
      (∀ i h nonce, (i, h) ∈ all →
        answers (.getMeasurements i true nonce) p.spdmStage
          (.measurements [(i, h)] (some (Config.aliasSign p.boots (nonce ++ leBytes 48 h.toNat))))) ∧
      ∀ i sign nonce, 5 ≤ i → i ≠ 0xFF → answers (.getMeasurements i sign nonce) p.spdmStage .error) ∧
    ((p.spdmStage < 3 ∨ p.attest = false) →
      answers .getDigests p.spdmStage .error ∧ (∀ off n, answers (.getCertificate off n) p.spdmStage .error) ∧
      (∀ nonce, answers (.challenge nonce) p.spdmStage .error) ∧
      ∀ i sign nonce, answers (.getMeasurements i sign nonce) p.spdmStage .error)

/-- R15, R29, R42, R43, R435: accesses to BAR0: a read gives the addressed bytes and clears what it returns whole; a
write is merged, limited, or ignored as the register's own rule has it; a step of the counter is absorbed by the slew
that is outstanding.  That a read by a virtual function clears FLIT_ERR too is deduced (log 38). -/
def Obligations.HostRegisterAccess : Prop :=
  ∀ s : State, s.pkg.hostUp = true → s.pkg.recovery = false →
    (∀ fn off len, accessOk off len = true → s.regReach fn (regAt fn off).1 = true →
      Gives (.rcFieldRead fn off len) s fun t =>
        t = { s with pkg := t.pkg } ∧
        t.pkg.hostReply = leBytes len ((s.regValue fn (regAt fn off).1).toNat / 2 ^ (8 * (regAt fn off).2)) ∧
        t.pkg.flits = if (regAt fn off).1 = .apex 0x20 ∧ 7 < (regAt fn off).2 + len then 0 else s.pkg.flits) ∧
    (∀ fn off len, ¬(accessOk off len = true ∧ s.regReach fn (regAt fn off).1 = true) →
      (Gives (.rcFieldRead fn off len) s fun t => t = { s with pkg := { s.pkg with hostReply := leBytes len 0 } }) ∧
      ∀ v, Gives (.registerWrite fn off len v) s fun t => t = s) ∧
    (∀ fn off len v, (regAt fn off).1.ownRow fn (regAt fn off).2 len v = false →
      Gives (.registerWrite fn off len v) s fun t =>
        t.groups = s.groups ∧ t.teams = s.teams ∧ t.cores = s.cores ∧ SameBytes s t ∧ t.pkg.ns = s.pkg.ns ∧
        ∀ q, (t.part q).state = (s.part q).state) ∧
    (∀ v : Word, Gives (.registerWrite 0 0x110 4 v) s fun t => t = { s with pkg := { s.pkg with ppb := t.pkg.ppb } } ∧
      t.pkg.ppb.toInt = max (-128000000) (min 128000000 (BitVec.ofNat 32 v.toNat).toInt)) ∧
    (∀ v : Word, ∀ p, p < 8 → Gives (.registerWrite 0 (0x10010 + 0x1000 * p) 1 v) s fun t =>
      (t.part p).page = { (s.part p).page with err := (s.part p).page.err &&& ~~~(v.setWidth 8) }) ∧
    (∀ v : Word, ∀ p, p < 8 → s.owns 0 p = true → Gives (.registerWrite 0 (0x10018 + 0x1000 * p) 8 v) s fun t =>
      (t.part p).page = if (s.part p).state = .config then { (s.part p).page with ptRoot := at_ (field v 12 40) 12 }
        else (s.part p).page) ∧
    (∀ d : Word, 0 ≤ d.toInt → Gives (.nsStep 0 d) s fun t =>
      t.pkg.ns.toNat = (s.pkg.ns.toNat + (d.toNat - min d.toNat s.pkg.slew)) % 2 ^ 64 ∧
      t.pkg.slew = s.pkg.slew - min d.toNat s.pkg.slew) ∧
    (∀ d : Word, d.toInt < 0 → Gives (.nsStep 0 d) s fun t =>
      t = { s with pkg := { s.pkg with slew := s.pkg.slew + (-d.toInt).toNat } }) ∧
    ∀ fn d, fn ≠ 0 → Gives (.nsStep fn d) s fun t => t = s

/-- R29, R42, R44, R46, R49, R55, R284: a virtual function that does not own a partition changes nothing of it through its
registers, its commands, its windows and its apertures, and learns nothing of it by a read: its registers and tables, its
teams, its groups but for their wake flags, and its engine commands stay.  What is said of teams, groups and commands is stated
for states in which each of them stands in one partition (`Owned`, which holds at reset). -/
def Obligations.FunctionIsolation : Prop :=
  ∀ (s : State) (fn p q : Nat) (i : Instr), fn ≠ 0 → s.owns fn p = false →
    let direct := (∃ off len v, i = .registerWrite fn off len v) ∨ (∃ off len, i = .rcFieldRead fn off len) ∨ i = .createCmd fn q ∨
      i = .startCmd fn q ∨ i = .haltCmd fn q ∨ (∃ x y z, i = .dbgSnap fn q x y z) ∨ (∃ x y z, i = .dbgStop fn q x y z) ∨
      (∃ d, i = .nsStep fn d) ∨ (∃ off bs, i = .windowWrite fn off bs) ∨ (∃ off len, i = .windowRead fn off len) ∨
      (∃ off n, i = .apertureWrite fn off n) ∨ (∃ off, i = .apertureRead fn off) ∨
      ∃ off len w, i = .apertureBadAccess fn off len w
    let others := i = .destroyCmd fn q ∨ (∃ x y z, i = .dbgResume fn q x y z) ∨ (∃ x y z, i = .dbgStep fn q x y z) ∨
      (∃ x y z, i = .dbgKill fn q x y z) ∨ ∃ off n, i = .wakeWrite fn off n
    let mine := fun (u : State) (c : Nat) (matrix : Bool) => ((u.core c).queue matrix).filter (·.part == p)
    (direct → ∀ t, exec i s = .next t → t.part p = s.part p) ∧
    (Owned s → direct ∨ others → ∀ t, exec i s = .next t →
      t.part p = s.part p ∧ (∀ x, x ∈ s.teams → x.2.part = p → t.team x.1 = x.2) ∧
      (∀ x, x ∈ s.groups → x.2.part = p → SameButWake x.2 (t.group x.1)) ∧ ∀ c matrix, mine t c matrix = mine s c matrix) ∧
    (s.pkg.hostUp = true → s.pkg.recovery = false → p + 1 = fn →
      (∀ off len, 0x10000 ≤ off → off < 0x11000 → accessOk off len = true →
        Gives (.rcFieldRead fn off len) s fun t => t.pkg.hostReply = leBytes len 0) ∧
      (∀ off len, len ≤ 4096 → Gives (.windowRead fn off len) s fun t =>
        t = { s with pkg := t.pkg } ∧ t.pkg.hostReply = List.replicate len 0) ∧
      (∀ off bs, bs.length ≤ 512 → Gives (.windowWrite fn off bs) s fun t => t = { s with pkg := t.pkg }) ∧
      (∀ off, off % 8 = 0 → Gives (.apertureRead fn off) s fun t =>
        t = { s with pkg := t.pkg } ∧ t.pkg.hostReply = List.replicate 8 0) ∧
      ∀ off n, off % 8 = 0 →
        (Gives (.apertureWrite fn off n) s fun t => t = { s with pkg := t.pkg }) ∧
        Gives (.wakeWrite fn off n) s fun t => t = { s with pkg := t.pkg })

/-- R18, R44, R56, R65, R74, R92, R93, R276, R282: the commands of PART_CMD, each on every path: ignored where the function's
write does not reach it, refused in a state that does not take it, performed otherwise; START writes the class blocks,
whose counts start at 0.  The halt after a START whose type entry or class block cannot be reached (log 41) and the order
of DESTROY's parts (log 37) are deduced. -/
def Obligations.PartitionCommands : Prop :=
  ∀ (s : State) (fn part : Nat), s.pkg.hostUp = true →
    let p := s.part part
    (s.commands fn part = false →
      ∀ i, i ∈ [Instr.createCmd fn part, .startCmd fn part, .haltCmd fn part, .destroyCmd fn part] →
        Gives i s fun t => t = s) ∧
    (s.commands fn part = true →
      (p.state = .free → (∀ d, d < 4 → s.bistDone d = true) → Gives (.createCmd fn part) s fun t =>
        t.part part = { p with state := .config, ilv := s.pkg.ilv, locus := [], locusClock := 1
                               page := { p.page with cmd := 1 } } ∧
        (∀ q, q ≠ part → t.part q = s.part q) ∧ t = { s with parts := t.parts }) ∧
      ((p.state ≠ .free ∨ ∃ d, d < 4 ∧ s.bistDone d = false) →
        Gives (.createCmd fn part) s fun t => ErrSet s t part 5) ∧
      (s.startable part = false → Gives (.startCmd fn part) s fun t => ErrSet s t part 5) ∧
      (s.startable part = true →
        (∀ c a, s.identity part = .error (.fail c a) → Gives (.startCmd fn part) s fun t => ErrSet s t part 5) ∧
        ∀ u resv netid, s.identity part = .ok ((resv, netid), u) →
          let w := (u.noteCmd part 2).enterRun part resv netid
          let x := w.part part
          (u.identityOk part resv netid = false → Gives (.startCmd fn part) s fun t => ErrSet u t part 5) ∧
          (u.identityOk part resv netid = true →
            (x.state = .run ∧ x.resv = resv ∧ x.netid = netid ∧ x.fired = [] ∧ x.page.cmd = 2 ∧
              (∀ q, q ≠ part → w.part q = u.part q) ∧ w = { u with parts := w.parts }) ∧
            (∀ c a, State.writeClasses part w (List.range 8) = .error (.fail c a) → Gives (.startCmd fn part) s fun t =>
              (t.part part).state = .run ∧ HaltRaised w t part c (w.agentRecord 4 c a 0 0)) ∧
            ∀ y, State.writeClasses part w (List.range 8) = .ok y →
              y.parts = w.parts ∧
              (∀ z loc v, State.writeClasses part w (List.range 7) = .ok z →
                z.agentLoc part (classAddr 7) 64 .write = .ok (loc, v) →
                ∀ j, j < 8 → y.wordAt (loc + 8 * j) = (x.classBlock 7).getD j 0) ∧
              (bit resv 8 = false → Gives (.startCmd fn part) s fun t => t = y) ∧
              (∀ ty v, bit resv 8 = true → y.readType part (field resv 0 8) = .ok (ty, v) →
                Gives (.startCmd fn part) s fun t => t = v.reserve part ty) ∧
              ∀ c a, bit resv 8 = true → y.readType part (field resv 0 8) = .error (.fail c a) →
                Gives (.startCmd fn part) s fun t =>
                  (t.part part).state = .run ∧ HaltRaised y t part c (y.agentRecord 4 c a 0 0))) ∧
      (p.state = .run → Gives (.haltCmd fn part) s fun t =>
        (t.part part).state = .run ∧ (t.part part).page = { p.page with cmd := 3 } ∧
        (∀ q, q ≠ part → t.part q = s.part q) ∧ (∀ k, SameButWake (s.group k) (t.group k)) ∧
        HaltRaised s t part causeHostHalt (s.agentRecord 5 causeHostHalt 0 0 0)) ∧
      (p.state ≠ .run → Gives (.haltCmd fn part) s fun t => ErrSet s t part 5) ∧
      ((p.state = .config ∨ p.state = .halted) →
        let keys := (s.teams.filter fun x => x.2.part == part).map (·.1)
        ((∃ u, State.destroyTeams (s.noteCmd part 4) keys = some u) ∨ ∀ k, k ∈ keys → (s.team k).phase = .done) →
        Gives (.destroyCmd fn part) s fun t =>
          (t.part part).state = .free ∧ (t.part part).halt = none ∧ (t.part part).launches = [] ∧
          (t.part part).queues = [] ∧ (t.part part).page = { owner := p.page.owner } ∧
          ∀ x, x ∈ t.teams → x.2.part ≠ part) ∧
      ((p.state = .free ∨ p.state = .run) → Gives (.destroyCmd fn part) s fun t => ErrSet s t part 5))

/-- R24, R46, R48, R49: a write of the device-memory window stores its bytes in their order at the aligned parts of its
addresses, and a read answers with them, or, where the step's bound leaves its parts for later, each part of the write is
stored at a point of its own; a failing part sets WIN_XLATE, and that such a write stores nothing is deduced
(log 39).  An aperture write is subtracted from the counter that the map names, and a read answers with it; an unmapped or
failing entry sets its bit, and an entry with a reserved field halts the partition with a record of the Apex controller,
which is deduced (log 27). -/
def Obligations.WindowAndAperture : Prop :=
  ∀ (s u : State) (fn off part o : Nat), s.pkg.hostUp = true → s.pkg.recovery = false → s.owns fn part = true →
    (barAt fn off (2 ^ 36) = (part, o) → o < 2 ^ 36 →
      let va := (s.part part).windowAddr o
      (∀ bytes xs, bytes.length ≤ 512 → bytes ≠ [] → s.limit = some 0 →
        State.windowParts part .write (bytes.length / 8 + 2) s va bytes.length = .ok (xs, u) →
        Gives (.windowWrite fn off bytes) s fun t => SameBytes u t ∧ ∃ m : NetMove,
          (t.part part).winMoves = (u.part part).winMoves ++ [m] ∧ m.addr = (u.part part).windowAddr o ∧ m.data = some bytes ∧
          (m.todo.map (·.2)).sum = bytes.length ∧ ∀ x, x ∈ m.todo → x.2 ≤ 8 ∧ (m.addr.toNat + x.1) % 8 + x.2 ≤ 8) ∧
      (∀ (m : NetMove) bytes x rest loc pa, (s.part part).winMoves = [m] → m.fin = .window → m.data = some bytes →
        m.todo = x :: rest →
        s.agentAccess part (m.addr + BitVec.ofNat 64 x.1).toNat 1 .write = .ok (loc, .dev pa, u) →
        ∃ t, s.windowTurn part 0 0 = .next t ∧ Stored u t loc ((bytes.drop x.1).take x.2) ∧
          (t.part part).winMoves = if rest = [] then [] else [{ m with todo := rest }]) ∧
      (∀ bytes xs, bytes.length ≤ 512 → s.limit = none →
        State.windowParts part .write (bytes.length / 8 + 2) s va bytes.length = .ok (xs, u) →
        Gives (.windowWrite fn off bytes) s fun t =>
          (xs.map (·.2)).sum = bytes.length ∧ t.parts = u.parts ∧
          (∀ a, (∀ x, x ∈ xs → ¬(x.1 ≤ a ∧ a < x.1 + x.2)) → t.byteAt a = u.byteAt a) ∧
          ∀ pre x post, xs = pre ++ x :: post → (∀ y, y ∈ post → y.1 + y.2 ≤ x.1 ∨ x.1 + x.2 ≤ y.1) →
            ∀ j, j < x.2 → t.byteAt (x.1 + j) = bytes.getD ((pre.map (·.2)).sum + j) 0) ∧
      (∀ n xs, n ≤ 4096 → s.limit = none → State.windowParts part .read (n / 8 + 2) s va n = .ok (xs, u) →
        Gives (.windowRead fn off n) s fun t =>
          t.pkg.hostReply = xs.flatMap (fun x => u.bytesAt x.1 x.2) ∧ t.groups = u.groups ∧ SameBytes u t) ∧
      (∀ bytes c a, bytes.length ≤ 512 →
        State.windowParts part .write (bytes.length / 8 + 2) s va bytes.length = .error (.fail c a) →
        Gives (.windowWrite fn off bytes) s fun t => ErrSet s t part 4) ∧
      ∀ n c a, n ≤ 4096 → State.windowParts part .read (n / 8 + 2) s va n = .error (.fail c a) →
        Gives (.windowRead fn off n) s fun t => ErrSet s t part 4 ∧ t.pkg.hostReply = List.replicate n 0xFF) ∧
    (barAt fn off (2 ^ 20) = (part, o) → o < wakeWindow →
      (off % 8 = 0 → ∀ n : Word,
        (∀ va loc, s.aperture part (o / 8) .write = (.counter va loc, u) →
          (n = 0 → Gives (.apertureWrite fn off n) s fun t => t = u) ∧
          (n ≠ 0 → u.isCounter loc = false → Gives (.apertureWrite fn off n) s fun t =>
            (∀ k, SameButWake (u.group k) (t.group k)) ∧ Stored u t loc (leBytes 8 (u.wordAt loc - n).toNat)) ∧
          (n ≠ 0 → ∀ w, u.decrement part va loc n = .ok w → Gives (.apertureWrite fn off n) s fun t => t = w)) ∧
        (∀ ea, s.aperture part (o / 8) .write = (.reserved ea, u) → Gives (.apertureWrite fn off n) s fun t =>
          HaltRaised u t part causeIllegalOp (u.agentRecord 5 causeIllegalOp ea 0 0)) ∧
        (s.aperture part (o / 8) .write = (.unmapped, u) → Gives (.apertureWrite fn off n) s fun t => ErrSet u t part 0) ∧
        (s.aperture part (o / 8) .write = (.failed, u) → Gives (.apertureWrite fn off n) s fun t => ErrSet u t part 2)) ∧
      (off % 8 = 0 →
        (∀ va loc, s.aperture part (o / 8) .read = (.counter va loc, u) →
          Gives (.apertureRead fn off) s fun t => t.pkg.hostReply = u.bytesAt loc 8 ∧ SameBytes u t) ∧
        (∀ ea, s.aperture part (o / 8) .read = (.reserved ea, u) → Gives (.apertureRead fn off) s fun t =>
          HaltRaised u t part causeIllegalOp (u.agentRecord 5 causeIllegalOp ea 0 0)) ∧
        (s.aperture part (o / 8) .read = (.unmapped, u) →
          Gives (.apertureRead fn off) s fun t => ErrSet u t part 0 ∧ t.pkg.hostReply = allOnes) ∧
        (s.aperture part (o / 8) .read = (.failed, u) →
          Gives (.apertureRead fn off) s fun t => ErrSet u t part 2 ∧ t.pkg.hostReply = allOnes)) ∧
      (∀ n, ¬(off % 8 = 0 ∧ n = 8) →
        (Gives (.apertureBadAccess fn off n true) s fun t => ErrSet s t part 1) ∧
        Gives (.apertureBadAccess fn off n false) s fun t =>
          ErrSet s t part 1 ∧ t.pkg.hostReply = List.replicate n 0xFF))

/-! ## Machine events: the task machine, the dispatchers, the network (chapters 02 and 03) -/

/-- R70, R79, R80, R85, R114, R118: a successor decrement is performed, after the stores to host memory of teams that have
retired; a launch that is over completes its record; a batch closes into its class queue; a team retires.  The records of
the halts over a failing address (logs 25 and 27) are deduced. -/
def Obligations.TaskEvents : Prop :=
  (∀ (s u : State) (part i : Nat) (r a : Word) (n loc : Nat) (x : Target),
    let p := s.part part
    let v := (s.setWork part i []).flushRetired
    p.state = .run → p.halt = none → p.work[i]? = some (.dec r a n) →
    (v.agentAccess part a.toNat 8 .write = .ok (loc, x, u) → x.isSystem = false →
      (u.isCounter loc = false → Gives (.counterDecrement part i) s fun t =>
        (t.part part).work = p.work.take i ++ p.work.drop (i + 1) ∧
        Stored u t loc (leBytes 8 (u.wordAt loc - BitVec.ofNat 64 n).toNat)) ∧
      ∀ w, u.decrement part a loc (BitVec.ofNat 64 n) = .ok w → Gives (.counterDecrement part i) s fun t => t = w) ∧
    (v.agentAccess part a.toNat 8 .write = .ok (loc, x, u) → x.isSystem = true →
      (∀ w, (u.holdLine part x true).hostDecrement part a x (BitVec.ofNat 64 n) = some w →
        Gives (.counterDecrement part i) s fun t => t = w) ∧
      ((u.holdLine part x true).hostDecrement part a x (BitVec.ofNat 64 n) = none →
        Gives (.counterDecrement part i) s fun t =>
          HaltRaised s t part causeHostAbort (s.agentRecord 4 causeHostAbort a 0 0))) ∧
    ∀ c, v.agentAccess part a.toNat 8 .write = .error (some c) →
      Gives (.counterDecrement part i) s fun t => HaltRaised s t part c (s.agentRecord 4 c a 0 0) ∧
        (t.part part).work = p.work.take i ++ p.work.drop (i + 1)) ∧
  (∀ (s : State) (part i j : Nat) (r a : Word),
    let p := s.part part
    p.state = .run → p.halt = none → p.work[i]? = some (.block r a j) → (p.work.take i).any (·.record == r) = false →
    (∀ ws u, s.blockEntry part r a j = .ok (ws, u) → Gives (.counterDecrement part i) s fun t => t = u.setWork part i ws) ∧
    ∀ c x, s.blockEntry part r a j = .error (.fail c x) → Gives (.counterDecrement part i) s fun t =>
      HaltRaised s t part c (s.agentRecord 4 c x 0 0)) ∧
  (∀ (s u : State) (part id loc : Nat) (l : Launch),
    let p := s.part part
    let v := s.setPart part { p with launches := p.launches.filter (·.id != id)
                                     batches := p.batches.filter fun b => some b.slot != l.slot || b.isOpen }
    p.launches.find? (·.id == id) = some l → p.state = .run → p.halt = none → l.over = true →
    (∀ c a, v.agentLoc part l.record 128 .write = .error (.fail c a) → Gives (.recordComplete part id) s fun t =>
      HaltRaised s t part c (s.agentRecord 4 c a 0 0)) ∧
    (v.agentLoc part l.record 128 .write = .ok (loc, u) → Gives (.recordComplete part id) s fun t =>
      field (t.wordAt (loc + 0x68)) 0 3 = 3 ∧ (∀ a, ¬(loc + 0x68 ≤ a ∧ a < loc + 0x70) → t.byteAt a = u.byteAt a) ∧
      (∀ l', l' ∈ (t.part part).launches → l'.id ≠ id) ∧
      (t.part part).work.length = p.work.length + recNsucc (u.recordWords loc) + b2n (bit (u.wordAt (loc + 8)) 27))) ∧
  (∀ (s u : State) (part slot : Nat) (b : Batch),
    let p := s.part part
    p.batches.find? (·.slot == slot) = some b → b.isOpen = true → p.state = .run → p.halt = none →
    (256 ≤ b.entries ∨ b.since + 512 ≤ (s.cluster b.cluster).cycles) →
    (∀ c a, s.closeBatch part slot = .error (.fail c a) → Gives (.batchClose part slot) s fun t =>
      HaltRaised s t part c (s.agentRecord 4 c a 0 0)) ∧
    (s.closeBatch part slot = .ok u → Gives (.batchClose part slot) s fun t => t = u ∧
      (∀ x, x ∈ (t.part part).batches → x.slot = slot → x.isOpen = false) ∧
      ((p.queues.get [] b.cls).length < 4096 → p.overflow.get [] b.cls = [] →
        (t.part part).queues.get [] b.cls = p.queues.get [] b.cls ++ [batchRecord slot] ∧
        (t.part part).fired.get 0 b.cls = p.fired.get 0 b.cls + 1))) ∧
  ∀ (s u : State) (team : Nat),
    let x := s.team team
    x.phase = .resident → (s.part x.part).state = .run → (s.part x.part).halt = none →
    (∀ k, k ∈ s.groupsOf team → (s.group k).retired = true) → s.commandsOf team = [] →
    (s.retireTeam team = .ok u → Gives (.teamRetire team) s fun t => t = u) ∧
    (∀ c a, s.retireTeam team = .error (.fail c a) → Gives (.teamRetire team) s fun t =>
      HaltRaised s t x.part c (s.agentRecord 4 c a 0 0)) ∧
    (s.launchOf x = none → Gives (.teamRetire team) s fun t =>
      ((t.team team).phase = .done ∨ (t.team team).phase = .absent) ∧ team ∉ (t.core x.core).teamQ) ∧
    ∀ l loc, s.launchOf x = some l → l.trec = 0 → bit (s.part x.part).dbg.ctl 1 = false →
      s.agentLoc x.part l.record 128 .write = .ok (loc, u) → Gives (.teamRetire team) s fun t =>
        ((t.team team).phase = .done ∨ (t.team team).phase = .absent) ∧ team ∉ (t.core x.core).teamQ ∧
        field (t.wordAt (loc + 0x68)) 32 16 = min 65535 (field (u.wordAt (loc + 0x68)) 32 16 + 1) ∧
        ∀ a, ¬(loc + 0x68 ≤ a ∧ a < loc + 0x70) → t.byteAt a = u.byteAt a

/-- R72, R77, R82, R91, R96, R107, R108, R116: what the dispatchers place, complete, move, split and mark, and the state in
which a group of a unit starts.  The records of the halts over a record or a type (logs 27 and 30) and the interval that a
split takes (log 79) are the model's choices. -/
def Obligations.DispatchEvents : Prop :=
  (∀ (s : State) (part die : Nat), s.dispatching part = true → die < 4 →
    (∀ c a, s.examine part die = .error (.fail c a) → Gives (.dispatchUnit part die) s fun t =>
      HaltRaised s t part c (s.agentRecord 4 c a 0 0)) ∧
    ∀ cls rec loc u w, s.examine part die = .ok (some (.finish cls rec loc), u) →
      (u.finishRecord part rec loc (u.recordWords loc)).popRecord part cls rec = .ok w →
      Gives (.dispatchUnit part die) s fun t => t = w) ∧
  (∀ (s u : State) (part die : Nat) (l : Launch) (new : Bool) (ty : TaskType) (place : Place),
    s.dispatching part = true → die < 4 → s.examine part die = .ok (some (.unit l new ty place), u) →
    (∀ w, (u.dropHold part die).placeUnit part l new ty place = .ok w → Gives (.dispatchUnit part die) s fun t => t = w) ∧
    (∀ c a, (u.dropHold part die).placeUnit part l new ty place = .error (.fail c a) →
      Gives (.dispatchUnit part die) s fun t => HaltRaised s t part c (s.agentRecord 4 c a 0 0)) ∧
    (l.slot = none → 0 < l.next → l.next + 1 < l.units → (∀ x, x ∈ place → x.2.1.seats.length ≤ 32) →
      Gives (.dispatchUnit part die) s fun t =>
        t.nextTeam = s.nextTeam + place.length ∧
        ∀ m core allot r, place[m]? = some (core, allot, r) →
          let x := t.team (s.nextTeam + m)
          x.phase = .resident ∧ x.core = core ∧ x.allot = allot ∧ x.unit = l.next ∧ x.member = m ∧ x.param = l.param ∧
          x.type = ty ∧ x.reserved = r ∧ x.openRegion = none ∧ x.pending = none ∧ (∀ b, x.bars.get 0 b = 0) ∧
          ∀ j seat, allot.seats[j]? = some seat →
            let g := t.group ((s.nextTeam + m) * 32 + j)
            g = { freshGroup part (s.nextTeam + m) j ty seat with sampled := (s.cluster (clusterOf core)).cycles } ∧ g.part = part ∧ g.team = s.nextTeam + m ∧ g.idx = j ∧
            (g.port, g.slot) = seat ∧ g.cpc = ty.ctlBase ∧ g.fmt = ty.fmt0 ∧ (∀ r, g.getK r = 0) ∧ g.c = 0 ∧
            (∀ r i, g.v.get {} (r * 32 + i) = ⟨0, 0⟩ ∧ g.o.get {} (r * 32 + i) = ⟨0, 0⟩) ∧
            (∀ r : BitVec 3, g.getM r = if r = 0 then 0xFFFFFFFF else 0) ∧ g.live = 0xFFFFFFFF ∧ g.running = false ∧
            g.lq = [] ∧ g.cq = [] ∧ g.handlerBlock = none ∧ g.inHandler = false ∧ g.gl = [] ∧ g.sp = [] ∧ g.st = [] ∧
            g.tx = {} ∧ (∀ r, g.stall.get 0 r = 0) ∧ g.issueCycles = 0 ∧ g.groupCycles = 0 ∧
            g.trapPc = 0 ∧ g.trapLanes = 0 ∧ g.trapInfo0 = 0 ∧ g.trapInfo1 = 0 ∧ g.trapInfo2 = 0 ∧ g.trapInfo3 = 0)) ∧
  (∀ (s u w : State) (part cls : Nat) (rec : Word),
    let p := s.part part
    s.dispatching part = true → cls < 8 → p.netQ.length < 1024 → s.headOf part cls = .ok (some (.net rec), u) →
    (u.setPart part { u.part part with netQ := (u.part part).netQ ++ [rec] }).popRecord part cls rec = .ok w →
    Gives (.netEnqueue part cls) s fun t => t = w ∧ (t.part part).netQ = p.netQ ++ [rec] ∧
      (p.overflow.get [] cls = [] → (t.part part).queues.get [] cls = (p.queues.get [] cls).erase rec)) ∧
  (∀ (s u : State) (part core j m : Nat) (l : Launch) (ty : TaskType) (place : Place),
    let p := s.part part
    let iv := l.ivs.get (0, 0) j
    let mid := iv.1 + l.grain * ((m + 1) / 2)
    let cores := if ty.cohort = 0 then [core] else (List.range (ty.cohort + 1)).map fun i => core / 4 * 4 + i
    s.dispatching part = true → core < 256 → s.eligible part core = true →
    (∀ x, x ∈ s.teams → x.2.core = core → s.keeps x.1 x.2 = false) → (∀ k, k < 8 → p.queues.get [] k = []) →
    p.widest = some (l, j, m) → p.readmit.get [] l.cls = [] → s.readType part l.ttype = .ok (ty, u) → core ∈ cores →
    (u.fitCores part [] ty false cores = some place ∨
      (l.cls = 0 ∧ u.fitCores part [] ty false cores = none ∧ u.fitCores part [] ty true cores = some place)) →
    Gives (.rangeSplit part core) s fun t =>
      t.nextTeam = s.nextTeam + place.length ∧ ∃ l', l' ∈ (t.part part).launches ∧ l'.id = l.id ∧ l'.units = l.units + 1 ∧
        (j ≠ l.nextUnit → l'.ivs.get (0, 0) j = (iv.1, mid)) ∧ l'.ivs.get (0, 0) l.nextUnit = (mid, iv.2)) ∧
  ∀ (s : State) (team : Nat), (s.team team).phase = .resident → (s.team team).marked = false →
    (s.team team).lastAdmitNs + 2000000 ≤ s.pkg.ns.toNat →
    Gives (.residenceMark team) s fun t => t = s.setTeam team { s.team team with marked := true }

/-- R104-R107, R226, R247, R279: a pre-emption stops its victims and holds their place; a victim that has been stored
leaves its core; a unit that is re-admitted stands at its new place.  The choice of the victims and the hold (log 43), the
order of two admitted in one nanosecond (log 98), the record of a failing save or restore, of group 0 with INFO 32, and the
stop of that group (log 45), and what a re-admitted team resumes with (log 46) are readings of the model. -/
def Obligations.PreemptionEvents : Prop :=
  (∀ (s u1 u : State) (part die cls core : Nat) (h : Head) (ty : TaskType) (tm : Option Nat) (rec : Word) (vs : List Nat),
    let p := s.part part
    s.dispatching part = true → die < 4 → cls < 4 → p.holds.any (·.cls == cls) = false →
    s.headOf part cls = .ok (some h, u1) → Head.type u1 part h = .ok (some (ty, tm, rec), u) →
    u.placeOn part die cls [] ty = none → u.chooseVictims part die cls ty = some (core, vs) →
    vs.all u.regionsQuiet = true →
    Gives (.preempt part die cls) s fun t =>
      (t.part part).holds = p.holds ++ [{ cls, team := tm, record := rec, victims := vs, core
                                          place := (u.heldPlace part { cls, team := tm, record := rec, victims := vs, core } ty).getD [] }] ∧
      ∀ v, v ∈ vs → (t.team v).phase = .saving ∧ ∀ k, k ∈ u.groupsOf v → (t.group k).stop = .leaving) ∧
  (∀ (s u : State) (team : Nat),
    let x := s.team team
    x.phase = .saving → (s.part x.part).state = .run → (s.part x.part).halt = none → s.drained (s.groupsOf team) = true →
    (∀ c a y, s.storeTeam team = .error (.fail c a, y) →
      let v := { y with cores := s.cores }
      Gives (.saveComplete team) s fun t =>
        (t.group (team * 32)).stop = .halt ∧
        HaltRaised v t (v.group (team * 32)).part c (v.groupRecord (v.group (team * 32)) 6 c 0 a 32)) ∧
    (s.storeTeam team = .ok u → Gives (.saveComplete team) s fun t =>
      (t.team team).phase = .saved ∧ t.groups = u.groups ∧ SameBytes u t ∧
      ∀ c, c ∈ (t.core x.core).copyQ ++ (t.core x.core).matQ → c.team ≠ team)) ∧
  ∀ (s u w : State) (part die key : Nat) (place : Place),
    s.dispatching part = true → die < 4 → s.examine part die = .ok (some (.readmit key place), u) →
    let v := u.unlist part die key
    (∀ c a m z, v.readmitAll key place = .error (.fail c a, m, z) → Gives (.restore part die) s fun t =>
      (t.group (m * 32)).stop = .halt ∧
      (∀ core allot r, place[(v.team m).member]? = some (core, allot, r) →
        (t.team m).core = core ∧ ((t.group (m * 32)).port, (t.group (m * 32)).slot) = allot.seats.headD (0, 0)) ∧
      HaltRaised z t (z.group (m * 32)).part c (z.groupRecord (z.group (m * 32)) 6 c 0 a 32)) ∧
    (v.readmitAll key place = .ok w → Gives (.restore part die) s fun t => t = w ∧
      ∀ core allot r, place = [(core, allot, r)] → v.members (v.team key).part key = [key] →
        (v.team key).member = 0 → (v.team key).phase = .saved →
        (t.team key).phase = .resident ∧ (t.team key).core = core ∧ (t.team key).allot = allot ∧
        (t.team key).marked = false ∧ (t.team key).saveSlot = none)

/-- R72, R86-R90: the network engine's operations, and those that arrive from other packages, each on every path.  The
model's choices: SRC 3, 4 and 5 of the records (log 27); RUNNING at NET_OPERATION and the order of the acknowledgements
(log 52); a target whose halt line is raised is none (log 83); a record that software has rewritten meanwhile acts as its
words stand (log 99); and the 16 ms of each packet are read on the nanosecond counter (log 106). -/
def Obligations.NetworkEvents : Prop :=
  (∀ (s : State) (part : Nat) (rec : Word) (rest : List Word),
    let p := s.part part
    let v := s.setPart part { p with netQ := rest }
    let halts := fun (c : BitVec 8) (a prog : Word) => Gives (.netOperation part) s fun t =>
      (t.part part).netQ = rest ∧ HaltRaised s t part c (s.netRecord 0 c a 0 prog)
    p.netQ = rec :: rest → s.dispatching part = true →
    (∀ c a, v.agentLoc part rec 128 .write = .error (.fail c a) → halts c a 0) ∧
    ∀ loc u, v.agentLoc part rec 128 .write = .ok (loc, u) →
      let words := u.recordWords loc
      let kind := netKindOf words
      let ea := ctlAt (0x8000 + 32 * field (dword words 5) 32 10)
      (recordOk words = false → halts causeIllegalOp rec (netProgress kind 0)) ∧
      (recordOk words = true → (recKind words = 0 ∨ emptyRange words = true) → Gives (.netOperation part) s fun t =>
        t = u.finishRecord part rec loc words ∧ (t.part part).netQ = rest) ∧
      (recordOk words = true → recKind words = 1 ∨ recKind words = 2 → emptyRange words = false →
        ∀ y, u.pushRecord part (recClass words) rec = .ok y → Gives (.netOperation part) s fun t => t = y) ∧
      (recordOk words = true → 3 ≤ recKind words →
      (∀ c a, (u.setRecordState loc 2).agentLoc part ea 32 .read = .error (.fail c a) →
        halts c a (netProgress kind 0)) ∧
      ∀ el w, (u.setRecordState loc 2).agentLoc part ea 32 .read = .ok (el, w) →
        let q := w.part part
        let e := (List.range 4).map fun i => w.wordAt (el + 8 * i)
        let o : NetOp := { id := q.nextLaunch, record := rec, kind, words, packets := netPackets kind words, endpoint := e }
        let now := s.pkg.ns.toNat
        let begun := w.setPart part { q with nextLaunch := q.nextLaunch + 1, netOps := q.netOps ++ [o] }
        (endpointOk e (s.pkg.netActive == 1) = false → halts causeIllegalOp ea (netProgress kind 0)) ∧
        (endpointOk e (s.pkg.netActive == 1) = true → field (dword e 2) 36 8 = 0 →
          halts causeNetFail rec (netProgress kind 0)) ∧
        (endpointOk e (s.pkg.netActive == 1) = true → field (dword e 2) 36 8 ≠ 0 →
          (∀ y, State.sendPackets part o o.packets begun 0 = .next y → Gives (.netOperation part) s fun t => t = y) ∧
          (kind ≠ .put → (∀ x, x ∈ p.netOps → x.id ≠ p.nextLaunch) → Gives (.netOperation part) s fun t =>
            t.groups = begun.groups ∧ t.teams = begun.teams ∧ SameBytes begun t ∧ t.pkg = { begun.pkg with sent := t.pkg.sent } ∧
            (t.part part).netQ = rest ∧ t.pkg.sent.length = s.pkg.sent.length + o.packets ∧
            ∃ sent, (∀ i, i < o.packets → SMap.find? sent i = some now) ∧ (t.part part).netOps = p.netOps ++ [{ o with sent }]) ∧
          (kind = .put → o.packets = 1 → s.limit = none → (∀ x, x ∈ p.netOps → x.id ≠ p.nextLaunch) →
            let mv := netMove (dword words 3) (netPiece words 0).2 none (.send o.id 0)
            (∀ m z, State.moveAll part begun mv mv.todo = .ok (m, z) → Gives (.netOperation part) s fun t =>
              t.pkg.sent = .data e o.id 0 (dword words 4) m.bytes (netDeliv words) :: s.pkg.sent ∧
              (t.part part).netOps = p.netOps ++ [{ o with sent := SMap.put [] 0 now }] ∧ SameBytes z t) ∧
            ∀ c a, State.moveAll part begun mv mv.todo = .error (.fail c a) → halts c a (netProgress kind 0))))) ∧
  (∀ (s : State) (part id pkt : Nat) (data : List Byte) (o : NetOp),
    let p := s.part part
    let prog := netProgress o.kind o.done
    p.netOps.find? (·.id == id) = some o → s.dispatching part = true → pkt < o.packets →
    (∀ x, x ∈ p.netMoves → x.fin ≠ .send id pkt ∧ x.fin ≠ .land id pkt) →
    (SMap.find? o.acked pkt = none → Gives (.netAck part id pkt false data) s fun t =>
      HaltRaised s t part causeNetFail (s.netRecord 0 causeNetFail o.record 1 prog)) ∧
    ((∃ x, x ∈ o.sent ∧ x.2 + 16000000 ≤ s.pkg.ns.toNat) → Gives (.netAckTimeout part id) s fun t =>
      HaltRaised s t part causeNetFail (s.netRecord 0 causeNetFail o.record 2 prog)) ∧
    (o.mayAck pkt data = true → data.length = o.answerLen pkt → s.limit = none →
      let mv := netMove (dword o.words 3 + BitVec.ofNat 64 (netPiece o.words pkt).1) data.length (some data) (.land id pkt)
      let put := State.moveAll part (s.unstamp part id pkt) mv mv.todo
      let o' := { o with acked := o.acked.put pkt data, sent := SMap.del o.sent pkt }
      let rctr := dword o.words 6
      (∀ c a, put = .error (.fail c a) → Gives (.netAck part id pkt true data) s fun t =>
        HaltRaised s t part c (s.netRecord 0 c a 0 prog)) ∧
      ∀ m u, put = .ok (m, u) →
        let v := u.mapNetOp part id fun _ => o'
        (o'.done < o.packets → Gives (.netAck part id pkt true data) s fun t => t = v ∧ SameBytes u t ∧ t.groups = u.groups) ∧
        (o.packets ≤ o'.done →
          (∀ w, v.finishNet part o' = .ok w → Gives (.netAck part id pkt true data) s fun t => t = w ∧
            (∀ x, x ∈ (t.part part).netOps → x.id ≠ id) ∧
            t.pkg.sent = if field rctr 48 16 = 0 then s.pkg.sent
              else .decrement o.endpoint (field rctr 0 16) (field rctr 48 16) :: s.pkg.sent) ∧
          ∀ c a, v.finishNet part o' = .error (.fail c a) → Gives (.netAck part id pkt true data) s fun t =>
            HaltRaised s t part c (s.agentRecord 4 c a 0 0)))) ∧
  ∀ (s : State) (job epid peer w dec : Nat) (raddr : Word) (req : NetRequest),
    let sends := fun (v t : State) (m : NetMsg) => t = { v with pkg := { v.pkg with sent := m :: v.pkg.sent } }
    let decrements := fun (post : State → Prop) => Gives (.netRemoteDecrement job epid peer w dec) s post
    let arrives := fun (post : State → Prop) => Gives (.netIncoming job epid peer raddr req) s post
    let refused := arrives fun t => sends s t (.nack peer)
    (s.pkg.recovery = true → arrives (fun t => t = s) ∧ decrements fun t => t = s) ∧
    (s.pkg.recovery = false → s.netTarget job epid = none → refused ∧ decrements fun t => sends s t (.nack peer)) ∧
    ∀ part, s.pkg.recovery = false → s.netTarget job epid = some part →
      let moves := fun (need : Need) (n : Nat) (data : Option (List Byte)) =>
        let mv := netMove raddr n data (.answer peer)
        let fails := s.pagesFail part need (n / 4096 + 2) raddr n
        (fails = true → refused) ∧
        (fails = false → s.limit = none →
          (∀ m u, State.moveAll part s mv mv.todo = .ok (m, u) → arrives fun t => sends u t (.ack peer m.bytes)) ∧
          ∀ c a, State.moveAll part s mv mv.todo = .error (.fail c a) → refused)
      (∀ bs, req = .put bs → moves .write bs.length (some bs)) ∧
      (∀ n, req = .get n → moves .read n none) ∧
      (∀ bs loc x u, req = .put bs → bs ≠ [] → raddr.toNat % 8 + bs.length ≤ 8 → s.limit = none →
        s.agentAccess part raddr.toNat 1 .write = .ok (loc, x, u) → x.isSystem = false → arrives fun t =>
          Stored u t loc bs ∧ t.pkg.sent = .ack peer [] :: s.pkg.sent) ∧
      (∀ aop wide x y, req = .atomic aop wide x y →
        (∀ bs u, s.remoteAtomic part raddr aop (if wide then 8 else 4) x y = .ok (bs, u) →
          arrives fun t => sends u t (.ack peer bs)) ∧
        ∀ c a, s.remoteAtomic part raddr aop (if wide then 8 else 4) x y = .error (.fail c a) → refused) ∧
      ∀ u, (s.aperture part w .write = (.unmapped, u) → decrements fun t => ErrSet u t part 0) ∧
        (s.aperture part w .write = (.failed, u) → decrements fun t => ErrSet u t part 2) ∧
        (∀ ea, s.aperture part w .write = (.reserved ea, u) → decrements fun t =>
          HaltRaised u t part causeIllegalOp (u.agentRecord 5 causeIllegalOp ea 0 0)) ∧
        ∀ va loc, s.aperture part w .write = (.counter va loc, u) →
          (BitVec.ofNat 64 dec = 0 → decrements fun t => t = u) ∧
          (BitVec.ofNat 64 dec ≠ 0 → u.isCounter loc = false → decrements fun t =>
            Stored u t loc (leBytes 8 (u.wordAt loc - BitVec.ofNat 64 dec).toNat)) ∧
          ∀ y, BitVec.ofNat 64 dec ≠ 0 → u.decrement part va loc (BitVec.ofNat 64 dec) = .ok y → decrements fun t => t = y

/-- R53-R56, R63, R341: the reads of the consumer word for a parked SCALL, and the write of a wake word, each on every
path.  The model's choices: the list of waiting calls (log 33); a wake-word store of the call that fails faults its group
(log 34); a wake write that is ignored or fails (log 35); a positive wake word that no parked group owns is still counted
down (log 104); and a reread that finds the ring full sets CQ_FULL no second time (log 105). -/
def Obligations.CallQueueEvents : Prop :=
  (∀ (s : State) (k log : Nat) (d : BitVec 6) (c : BitVec 14) (pc : Word) (args : List Word) (after : Nat),
    let g := s.group k
    let p := s.part g.part
    let slot := p.page.cqProd.toNat % 2 ^ log
    let fails := fun (ok : Bool) => Gives (.cqConsRead k ok) s fun t =>
      (t.group k).stop = .halt ∧ bit ((t.part g.part).page.err.setWidth 64) 7 = true ∧
      HaltRaised s t g.part causeHostAbort (s.groupRecord g 0 causeHostAbort 0 (BitVec.ofNat 64 p.consumer) 32)
    p.ringLog = some log → s.serves g.part = true → ((s.team g.team).phase = .saved ∨ s.present k = true) →
    g.park = some (.scall d c pc args after) → (∀ f, f ∈ g.st → after ≤ f.seq) → k ∉ p.calls →
    fails false ∧ (s.pkg.hostUp = false → fails true) ∧
    (s.pkg.hostUp = true → s.ringRoom g.part log = 0 → Gives (.cqConsRead k true) s fun t =>
      (t.part g.part).calls = p.calls ++ [k] ∧ bit ((t.part g.part).page.err.setWidth 64) 6 = true ∧
      (t.part g.part).callNs = (if p.calls = [] then s.pkg.ns.toNat else p.callNs) ∧ t.groups = s.groups ∧ SameBytes s t) ∧
    (s.pkg.hostUp = true → s.ringRoom g.part log ≠ 0 → p.calls ≠ [] → Gives (.cqConsRead k true) s fun t =>
      t = s.setPart g.part { p with calls := p.calls ++ [k] }) ∧
    (s.pkg.hostUp = true → s.ringRoom g.part log ≠ 0 → p.calls = [] →
      (∀ v, s.agentSet g.part (p.wakeAddr slot) 1 = .ok v → Gives (.cqConsRead k true) s fun t =>
        SameBytes v t ∧ t.group k = { g with park := some (.call d slot) } ∧
        (t.part g.part).page.cqProd = p.page.cqProd + 1 ∧
        t.pkg.posted = s.pkg.posted ++
          [{ loc := p.callLoc slot + 8
             bytes := wordsBytes ([BitVec.ofNat 64 (s.gid g), pc, 0] ++ (List.range 4).map fun j => args.getD j 0) },
           { loc := p.callLoc slot
             bytes := wordBytes 8 (word [at_ c.toNat 16, at_ (g.part % 8) 8, at_ ((p.page.cqProd.toNat / 2 ^ log + 1) % 2) 0]) }] ++
          if bit p.page.cqCtl 8 = true then [{ irq := some (p.function, field p.page.cqCtl 16 8) }] else []) ∧
      ∀ x a, s.agentSet g.part (p.wakeAddr slot) 1 = .error (.fail x a) → Gives (.cqConsRead k true) s fun t =>
        Faulted { s with actor := k } t x 0 a 32)) ∧
  (∀ (s : State) (part log k : Nat) (ks : List Nat),
    let p := s.part part
    let now := s.pkg.ns.toNat
    let v := (s.setPart part { p with callNs := now }).setPart part { p with callNs := now, calls := ks }
    let fails := fun (ok : Bool) => Gives (.cqReread part ok) s fun t =>
      (t.group k).stop = .halt ∧ bit ((t.part part).page.err.setWidth 64) 7 = true ∧ (t.part part).calls = ks
    p.ringLog = some log → p.calls = k :: ks → s.serves part = true → p.callNs + 1000 ≤ now →
    fails false ∧ (s.pkg.hostUp = false → fails true) ∧
    (s.pkg.hostUp = true → s.ringRoom part log = 0 → Gives (.cqReread part true) s fun t =>
      t = s.setPart part { p with callNs := now }) ∧
    (s.pkg.hostUp = true → s.ringRoom part log ≠ 0 →
      (∀ u, v.postCall part k log = .ok u →
        (ks = [] → Gives (.cqReread part true) s fun t => t = u) ∧
        ∀ w, State.postWaiting part log ks.length u = .next w → Gives (.cqReread part true) s fun t => t = w) ∧
      ∀ c a, v.postCall part k log = .error (.fail c a) → Gives (.cqReread part true) s fun t =>
        Faulted { v with actor := k } t c 0 a 32)) ∧
  ∀ (s : State) (fn off part o log : Nat) (n : Word),
    let slot := (o - wakeWindow) / 8
    let at_' := (s.part part).wakeAddr slot
    let wakes := fun (post : State → Prop) => Gives (.wakeWrite fn off n) s post
    s.pkg.hostUp = true → s.pkg.recovery = false → s.owns fn part = true → barAt fn off (2 ^ 20) = (part, o) → o < 2 ^ 20 →
    wakeWindow ≤ o → off % 8 = 0 →
    ((s.part part).ringLog = none → wakes fun t => t = s) ∧
    ((s.part part).ringLog = some log → (n.toInt ≤ 0 ∨ 2 ^ log ≤ slot) → wakes fun t => t = s) ∧
    ((s.part part).ringLog = some log → slot < 2 ^ log → 0 < n.toInt →
      (∀ c a, s.agentLoc part at_' 8 .write = .error (.fail c a) → wakes fun t => ErrSet s t part 4) ∧
      ∀ loc u, s.agentLoc part at_' 8 .write = .ok (loc, u) →
        let y := u.commitBytes loc (wordBytes 8 (u.wordAt loc - n))
        ((u.wordAt loc).toInt ≤ 0 → wakes fun t => ErrSet u t part 3) ∧
        (0 < (u.wordAt loc).toInt →
          (y.parkedCall part slot = none → wakes fun t =>
            t = y ∧ Stored u t loc (leBytes 8 (u.wordAt loc - n).toNat)) ∧
          ∀ k, y.parkedCall part slot = some k →
            (((y.team (y.group k).team).phase ≠ .resident ∨ (y.group k).wakeable = false) → wakes fun t => t = y) ∧
            ((y.team (y.group k).team).phase = .resident → (y.group k).wakeable = true → (y.group k).part = part →
              ∀ d, (y.group k).park = some (.call d slot) →
                (∀ e, y.agentWord part at_' = .error e → wakes fun t => t = y) ∧
                ∀ w v, y.agentWord part at_' = .ok (w, v) →
                  (0 < w.toInt → wakes fun t => t = y) ∧
                  (w.toInt ≤ 0 → wakes fun t => SameBytes v t ∧ (∀ j, j ≠ k → t.group j = v.group j) ∧
                    let g := v.group k
                    t.group k = ({ g with
                      park := none, inCall := false, cpc := if g.inCall then g.cpc + 4 else g.cpc }.setK d
                        (v.wordAt ((v.part part).callLoc slot + 0x18))).stepped true))))

/-! ## Machine events: streams, time, halts and the debugger (chapters 01, 04, 06, 08 and 11) -/

/-- R117, R123, R124, R144, R239, R244: the events of a group's streams: a block starts; a group retires, whose END counts as
issued in a clock of its own; the watchdog aborts the open transactions; the oldest request gets the free serial token once
no commit of the partition holds its locks. -/
def Obligations.StreamEvents : Prop :=
  (∀ (s : State) (k : Nat) (b : LaneBlock) (q : List LaneBlock),
    let g := s.group k
    let starts := fun (t : State) (h : Group) =>
      (∀ j, j ≠ k → t.group j = s.group j) ∧ SameBytes s t ∧ t = { s with actor := k, groups := t.groups } ∧
      t.group k = { h with running := true, lpc := b.start.toNat, a := (t.group k).a, l := [], cur := g.live, stack := []
                           skip := 0, lfmt := b.fmt, lwait := none } ∧
      ∀ j, j < 8 → (t.group k).a.get 0 j = b.args.getD j 0
    g.running = false → { s with actor := k }.mayIssue false = true →
    (g.inHandler = false → g.lq = b :: q → Gives (.laneBlockStart k) s fun t => starts t { g with lq := q }) ∧
    (g.inHandler = true → g.handlerBlock = some b →
      Gives (.laneBlockStart k) s fun t => starts t g)) ∧
  (∀ (s : State) (k : Nat),
    let g := s.group k
    let x := { s.team g.team with
      pointers := SMap.set 0 (s.team g.team).pointers (2 * g.port + 1) ((g.slot + 1) % 16) }
    let clock := s.slotClock (s.team g.team).core g.port true
    let clocks := if g.issued.contains clock = true then g.issued else clock :: g.issued
    (s.team g.team).phase = .resident → g.ended = true → g.retired = false → g.stop = .none → g.restarting = false →
    g.laneIdle = true → g.handlerBlock = none → g.gl = [] → g.sp = [] → g.st = [] → k ∈ s.groupsOf g.team →
    Gives (.groupRetire k) s fun t =>
      t.group k = { g with retired := true, cq := [], ctlIssued := g.ctlIssued + 1, issued := []
                           groupCycles := g.groupCycles + clocks.length, issueCycles := g.issueCycles + clocks.length } ∧
      (∀ j, j ≠ k → t.group j = s.group j) ∧ SameBytes s t ∧ (∀ j, j ≠ g.team → t.team j = s.team j) ∧
      ((∀ j, j ∈ s.groupsOf g.team → j ≠ k → (s.group j).retired = true) →
        t.team g.team = { x with retireNs := s.pkg.ns.toNat }) ∧
      ((∃ j, j ∈ s.groupsOf g.team ∧ j ≠ k ∧ (s.group j).retired = false) → t.team g.team = x)) ∧
  (∀ (s : State) (k : Nat),
    let g := s.group k
    g.timedOut = true → Gives (.txWatchdog k) s fun t =>
      let h := t.group k
      h.tx.active = 0 ∧ h.tx.rejoin = g.tx.rejoin ||| g.tx.active ∧ h.cur = g.cur &&& ~~~g.tx.active ∧ h.v = g.v ∧ h.k = g.k ∧
      (∀ i, i < 32 → lane g.tx.active i = true → h.tx.xc.get 0 i = BitVec.ofNat 32 (g.tx.depth % 8 * 256 + 5)) ∧
      (∀ j, j ≠ k → t.group j = s.group j) ∧ SameBytes s t) ∧
  ∀ (s : State) (part k : Nat) (q : List Nat),
    let g := s.group k
    (s.part part).serialHolder = none → (s.part part).serialQ = k :: q → { s with actor := k }.mayIssue false = true →
    s.commitLocked part = false →
    Gives (.serialTokenGrant part) s fun t =>
      let h := t.group k
      (t.part part).serialHolder = some k ∧ (t.part part).serialQ = q ∧ h.tx.depth = 1 ∧ h.tx.serial = true ∧
      h.tx.active = g.cur ∧ h.lpc = g.lpc + 1 ∧ h.lwait = none ∧ h.laneIssued = g.laneIssued + 1 ∧ h.v = g.v ∧ h.k = g.k ∧
      (∀ j, j ≠ k → t.group j = s.group j) ∧ SameBytes s t

/-- R30-R33, R161, R283: the events of the clocks; no two clusters of a die hold one boost slot, and none holds a slot
beyond those in effect. -/
def Obligations.ClockEvents : Prop :=
  (∀ (s : State) (core : Nat), (s.core core).ticks < (s.cluster (clusterOf core)).cycles / 1024 →
    Gives (.logicalTick core) s fun t => t = s.setCore core { s.core core with ticks := (s.core core).ticks + 1 }) ∧
  (∀ (s : State) (core port : Nat), port < 4 → s.portIdle core port = true →
    (s.core core).idleFrom.get 0 port + 1024 ≤ (s.cluster (clusterOf core)).cycles →
    Gives (.portGate core port) s fun t => (t.core core).gated.getLsbD port = true ∧
      (∀ p, p ≠ port → (t.core core).gated.getLsbD p = (s.core core).gated.getLsbD p) ∧ t.groups = s.groups ∧ SameBytes s t) ∧
  (∀ (s : State) (die n : Nat), die < 4 → 10000 ≤ (s.boostDie die).since → n ≤ (s.boostDie die).written →
    Gives (.boostBoundary die n) s fun t =>
      (t.boostDie die).slots = n ∧ (t.boostDie die).since = (s.boostDie die).since - 10000 ∧
      (∀ c, c / 16 ≠ die → t.cluster c = s.cluster c) ∧
      (∀ c i, c / 16 = die → (t.cluster c).slot = some i → i < n) ∧
      ((∀ c c' i, c / 16 = die → c' / 16 = die → c ≠ c' → (s.cluster c).slot = some i → (s.cluster c').slot ≠ some i) →
        ∀ c c' i, c / 16 = die → c' / 16 = die → c ≠ c' → (t.cluster c).slot = some i → (t.cluster c').slot ≠ some i) ∧
      (∀ c, c / 16 = die → (t.cluster c).permits ≤ min 64 ((s.cluster c).permits + (s.cluster c).nominalNs / 40000)) ∧
      t.groups = s.groups ∧ SameBytes s t) ∧
  ∀ (s : State) (c : Nat), c < 64 → 40000 ≤ (s.cluster c).nominalNs →
    Gives (.permitAccrue c) s fun t =>
      t.cluster c = { s.cluster c with permits := min 64 ((s.cluster c).permits + 1)
                                       nominalNs := (s.cluster c).nominalNs - 40000 } ∧
      (∀ j, j ≠ c → t.cluster j = s.cluster j) ∧ t = { s with clusters := t.clusters }

/-- R19, R20, R21: a page that is to be migrated has its unit marked busy and a frame claimed; the completed migration
has copied the unit's pages and points their entries at the frame. -/
def Obligations.MigrationEvents : Prop :=
  (∀ (s : State) (part a i : Nat) (va : Word),
    let p := s.part part
    let m := field s.pkg.migMap 3 49 * 8 + i / 8
    let b := a / 128 * 128
    p.state ≠ .free → s.checkVa part va.toNat .read false = .busy →
    s.leafEntry va.toNat 5 (field p.page.ptRoot 12 40 * 4096) = some a → s.nextFrame = some i → bit (s.wordAt a) 9 = false →
    (m < b ∨ b + 128 ≤ m) →
    Gives (.migrationStart part va) s fun t =>
      (∀ j, j < 16 → t.wordAt (b + 8 * j) = s.wordAt (b + 8 * j) ||| at_ 1 9) ∧ (t.byteAt m).getLsbD (i % 8) = true ∧
      (∀ x, x ≠ m → ¬(b ≤ x ∧ x < b + 128) → t.byteAt x = s.byteAt x) ∧
      t.pkg.moves = s.pkg.moves ++ [{ part, ptes := b, frame := field s.pkg.migPool 16 36 * 65536 + i * 65536 }]) ∧
  ∀ (s : State) (i : Nat) (m : Migration), s.pkg.moves[i]? = some m →
    (Gives (.migrationComplete i) s fun t => t.pkg.moves = s.pkg.moves.eraseIdx i) ∧
    ((∀ d, (s.part m.part).dbg.traceWait.get [] d = []) → Gives (.migrationComplete i) s fun t =>
      let e := fun (j : Nat) => s.wordAt (m.ptes + 8 * j)
      (∀ x, ¬(m.ptes ≤ x ∧ x < m.ptes + 128) → ¬(m.frame ≤ x ∧ x < m.frame + 65536) → t.byteAt x = s.byteAt x) ∧
      ((m.ptes + 128 ≤ m.frame ∨ m.frame + 65536 ≤ m.ptes) →
        (∀ j, j < 16 → t.wordAt (m.ptes + 8 * j) = (e j &&& ~~~(at_ (2 ^ 40 - 1) 12) &&& ~~~(at_ 7 7)) |||
          at_ ((m.frame + j * 4096) / 4096 % 2 ^ 40) 12) ∧
        ((∀ j, j < 16 → (pteBase (e j) + 4096 ≤ m.frame ∨ m.frame + 65536 ≤ pteBase (e j)) ∧
            (pteBase (e j) + 4096 ≤ m.ptes ∨ m.ptes + 128 ≤ pteBase (e j))) →
          ∀ j x, j < 16 → x < 4096 → t.byteAt (m.frame + j * 4096 + x) = s.byteAt (pteBase (e j) + x))))

/-- R274-R278, R287: everything of a halted partition stops with its records, snapshots are latched, dumps are written,
and the partition is halted at last.  A group that already stands under a debug stop takes the halt's stop too and writes a
record of KIND 1 besides, which is the model's reading (log 47), and so are the marks of a debug stop; the NS of a
snapshot's dump is the time of its latch (log 116). -/
def Obligations.HaltEvents : Prop :=
  (∀ (s : State) (k : Nat) (h : Halt),
    let g := s.group k
    let d := (s.part g.part).dbg
    g.retired = false → s.present k = true → (s.part g.part).halt = some h → g.stop ≠ .halt →
    Gives (.engineStop (.group k)) s fun t =>
      t.group k = { g with stop := .halt, asked := false, stepping := none, stepOver := false, skid := 0 } ∧
      (∀ j, j ≠ k → t.group j = s.group j) ∧ SameBytes s t ∧ (t.part g.part).serialHolder ≠ some k ∧
      ((g.stepping = none ∨ g.stepOver = false) → (t.part g.part).dbg = d ∧
        (t.part g.part).halt = some { h with records := h.records ++ [s.groupRecord g 1 h.cause 0 0 0] }) ∧
      (g.stepping ≠ none → g.stepOver = true →
        (t.part g.part).halt = some { h with records := h.records ++ [s.groupRecord { g with skid := 0 } 1 h.cause 0 0 0] } ∧
        (t.part g.part).dbg = { d with dumps := d.dumps ++
          [{ event := 1, cause := 0, records := [s.groupRecord { g with skid := 1 } 4 0 0 0 0], ns := s.pkg.ns.toNat }] })) ∧
  (∀ (s : State) (k : Nat),
    let g := s.group k
    let d := (s.part g.part).dbg
    let r := s.groupRecord g 2 0 0 0 0
    g.retired = false → s.present k = true → (s.part g.part).halt = none → g.asked = true →
    Gives (.engineStop (.group k)) s fun t =>
      t.group k = { g.flushIssued with stop := .debug, asked := false, skid := 0 } ∧ (∀ j, j ≠ k → t.group j = s.group j) ∧
      SameBytes s t ∧ (t.part g.part).dbg = { d with stops := (t.part g.part).dbg.stops } ∧
      (∀ xs x ys, d.stops = xs ++ x :: ys → k ∈ x.groups → (∀ y, y ∈ xs → k ∉ y.groups) → x ∉ ys →
        (t.part g.part).dbg.stops =
          xs ++ { x with groups := x.groups.filter (· != k), records := x.records ++ [r] } :: ys) ∧
      ((∀ x, x ∈ d.stops → k ∉ x.groups) → (t.part g.part).dbg.stops =
        d.stops ++ [{ ns := s.pkg.ns.toNat, hit := false, groups := [], records := [r] }])) ∧
  (∀ (s : State) (part core : Nat) (matrix : Bool) (h : Halt), (s.part part).halt = some h →
    (∃ c, c ∈ (s.core core).queue matrix ∧ c.part = part ∧ c.stopped = false) →
    Gives (.engineStop (if matrix then .matrix part core else .copy part core)) s fun t =>
      (∀ c, c ∈ (t.core core).queue matrix → c.part = part → c.stopped = true) ∧
      ((∀ c, c ∈ (s.core core).queue matrix → c.part = part → c.stopped = false → c.held = [] ∧ c.arrived = false) →
        ((t.core core).queue matrix).map (·.done) = ((s.core core).queue matrix).map (·.done) ∧ t.groups = s.groups ∧
        SameBytes s t ∧ ∃ rs, (t.part part).halt = some { h with records := h.records ++ rs } ∧
          ∀ r, r ∈ rs → r.kind = 1)) ∧
  (∀ (s : State) (part : Nat) (h : Halt), (s.part part).halt = some h →
    (0 ∉ h.engines → Gives (.engineStop (.tasks part)) s fun t =>
      (t.part part).halt = some { h with engines := 0 :: h.engines } ∧ t.groups = s.groups ∧ SameBytes s t) ∧
    (1 ∉ h.engines → (s.part part).netOps ≠ [] → (s.part part).netMoves = [] → Gives (.engineStop (.network part)) s fun t =>
      (∃ rs, rs.length = (s.part part).netOps.length ∧
        (t.part part).halt = some { h with engines := 1 :: h.engines, records := h.records ++ rs }) ∧ SameBytes s t) ∧
    (((s.part part).state = .run ∨ (s.part part).state = .config) → h.dumped = true → (s.part part).dbg.dumps = [] →
      (s.part part).dbg.stops.all (·.records.isEmpty) = true →
      Gives (.partitionHalted part) s fun t => (t.part part).state = .halted ∧ (t.part part).serialHolder = none ∧
        t.groups = s.groups ∧ SameBytes s t) ∧
    (h.latched = false → (s.part part).dbg.snaps = [] → h.ns + 64 ≤ s.pkg.ns.toNat →
      Gives (.snapshotLatch part) s fun t =>
        (t.part part).halt = some { h with latched := true, records := h.records ++ s.snapshot part } ∧
        t.groups = s.groups ∧ SameBytes s t)) ∧
  (∀ (s : State) (part x : Nat) (xs : List Nat), (s.part part).dbg.snaps = x :: xs → x + 64 ≤ s.pkg.ns.toNat →
    Gives (.snapshotLatch part) s fun t => (t.part part).dbg.snaps = xs ∧ t.groups = s.groups ∧ SameBytes s t ∧
      ∃ j, (t.part part).dbg.dumps = (s.part part).dbg.dumps ++ [j] ∧ j.event = 2 ∧ j.records = s.snapshot part) ∧
  ∀ (s v : State) (part : Nat) (j : DumpJob),
    let p := s.part part
    let d := p.dbg
    let len := field d.dumpLen 6 26 * 64
    let seq := (d.seq + 1) % 2 ^ 32
    ((∃ js, d.dumps = j :: js ∧ v = s.setPart part { p with dbg := { d with dumps := js } }) ∨
      (d.dumps = [] ∧ ∃ x, d.stops.find? s.stopOver = some x ∧ j = { event := 1, cause := 0, records := x.records, ns := x.ns } ∧
        v = s.setPart part { p with dbg := { d with stops := d.stops.erase x } }) ∨
      (d.dumps = [] ∧ d.stops.find? s.stopOver = none ∧ s.allStopped part = true ∧ ∃ h, p.halt = some h ∧ h.dumped = false ∧
        h.latched = true ∧ j = { event := 0, cause := h.cause, records := h.records, ns := h.ns } ∧
        v = s.setPart part { p with halt := some { h with dumped := true } })) →
    (field d.dumpBase 6 51 = 0 → Gives (.dumpWrite part) s fun t =>
      (t.part part).dbg = { (v.part part).dbg with seq, dumpStat := 0 } ∧ (t.part part).halt = (v.part part).halt ∧
      SameBytes s t) ∧
    (field d.dumpBase 6 51 ≠ 0 → len < 64 → Gives (.dumpWrite part) s fun t =>
      (t.part part).dbg = { (v.part part).dbg with seq, dumpStat := 0x8000000000000000 } ∧
      (t.part part).halt = (v.part part).halt ∧ SameBytes s t) ∧
    ∀ u r, field d.dumpBase 6 51 ≠ 0 → 64 ≤ len → r.wait = false →
      State.dumpStores part (at_ (field d.dumpBase 6 51) 6) v {} (dumpStoreList j seq j.records.length
        ((dumpOrder j.records).take (min j.records.length (len / 64 - 1)))
        (decide (min j.records.length (len / 64 - 1) < j.records.length))) = (u, r) →
      Gives (.dumpWrite part) s fun t => SameBytes u t ∧ t.groups = u.groups ∧ (t.part part).dbg.seq = seq ∧
        (r.bytes < 2 ^ 62 → bit (t.part part).dbg.dumpStat 62 = r.failed)

/-- R282, R284-R288: the commands of the debugger and what completes them.  The model's choices: a stop is asked of a group
and taken at its next boundary (log 47); RESUME and KILL in a halted partition (log 48); STREAM 2 and 3 of a STEP are
refused (log 117); a killed team's record that cannot be written (log 37) and the SRC 4 of its halt (log 27). -/
def Obligations.DebugEvents : Prop :=
  (∀ (s : State) (fn part x scope gid k : Nat), s.pkg.hostUp = true → s.reaches fn part = true →
    s.groupByGid part (gid % 2 ^ 14) = some k →
    let g := s.group k
    let h := (s.endStep k).group k
    (Gives (.dbgStop fn part x scope gid) s fun t =>
      (∀ j, t.group j = if j ∈ s.scopeOf k (scope % 4) ∧ s.askable j = true
        then { s.group j with asked := true, stepping := none, stepOver := false } else s.group j) ∧ SameBytes s t ∧
      ((∀ j, j ∈ s.scopeOf k (scope % 4) → s.askable j = false) → (t.part part).dbg.stops = (s.part part).dbg.stops) ∧
      ((∃ j, j ∈ s.scopeOf k (scope % 4) ∧ s.askable j = true) → ∃ xs, (t.part part).dbg.stops = xs ++
        [{ ns := s.pkg.ns.toNat, hit := false, groups := (s.scopeOf k (scope % 4)).filter s.askable, records := [] }])) ∧
    (Gives (.dbgResume fn part x scope gid) s fun t =>
      (∀ j, j ∈ s.scopeOf k (scope % 4) → (∀ d n, (s.group j).park ≠ some (.call d n)) →
        t.group j = ((s.endStep j).group j).resume (s.part part).halt.isSome) ∧
      (∀ j, j ∉ s.scopeOf k (scope % 4) → t.group j = s.group j) ∧
      (scope % 4 = 0 → (t.part part).dbg.dumps = ((s.endStep k).part part).dbg.dumps)) ∧
    (h.stop = .debug → h.stepping = none → h.asked = false →
      (x % 4 = 0 → Gives (.dbgStep fn part x scope gid) s fun t =>
        t.group k = { h with stepping := some false, stepOver := false } ∧ SameBytes s t ∧
        (t.part part).dbg.dumps = ((s.endStep k).part part).dbg.dumps) ∧
      (x % 4 = 1 → (∀ d n, g.park ≠ some (.call d n)) → Gives (.dbgStep fn part x scope gid) s fun t =>
        t.group k = { h.wake with stepping := some true, stepOver := false } ∧ SameBytes s t ∧
        (t.part part).dbg.dumps = ((s.endStep k).part part).dbg.dumps)) ∧
    ((h.stop ≠ .debug ∨ 2 ≤ x % 4 ∨ h.stepping ≠ none ∨ h.asked = true) → Gives (.dbgStep fn part x scope gid) s fun t =>
      (t.part part).dbg.refused = true ∧ t.groups = (s.endStep k).groups) ∧
    ((g.stepping = none ∨ g.stepOver = false) → s.endStep k = s) ∧
    (g.stepping ≠ none → g.stepOver = true → h = { g with stepping := none, stepOver := false, skid := 0 } ∧
      ((s.endStep k).part part).dbg.dumps = (s.part part).dbg.dumps ++
        [{ event := 1, cause := 0, records := [s.groupRecord { g with skid := 1 } 4 0 0 0 0], ns := s.pkg.ns.toNat }]) ∧
    (Gives (.dbgKill fn part x scope gid) s fun t =>
      (t.team g.team).phase = .killing ∧ (t.team g.team).openRegion = none ∧ (t.team g.team).pending = none ∧
      ∀ j, j ∈ s.groupsOf g.team → (t.group j).stop = .leaving ∧ (t.group j).tx = {})) ∧
  (∀ (s : State) (fn part x scope gid : Nat), s.pkg.hostUp = true → s.reaches fn part = true →
    (Gives (.dbgSnap fn part x scope gid) s fun t => t.groups = s.groups ∧ SameBytes s t ∧
      (t.part part).dbg.snaps = (s.part part).dbg.snaps ++ [s.pkg.ns.toNat]) ∧
    (s.groupByGid part (gid % 2 ^ 14) = none →
      ∀ i, i ∈ [Instr.dbgStop fn part x scope gid, .dbgResume fn part x scope gid, .dbgStep fn part x scope gid,
          .dbgKill fn part x scope gid] →
        Gives i s fun t => (t.part part).dbg.refused = true ∧ t.groups = s.groups ∧ SameBytes s t)) ∧
  (∀ (s : State) (k : Nat),
    let g := s.group k
    g.stop = .debug → g.stepping ≠ none → g.stepOver = true → Gives (.dbgStepEnd k) s fun t =>
      t.group k = { g with stepping := none, stepOver := false, skid := 0 } ∧ (∀ j, j ≠ k → t.group j = s.group j) ∧
      SameBytes s t ∧ ∃ j r, (t.part g.part).dbg.dumps = (s.part g.part).dbg.dumps ++ [j] ∧ j.event = 1 ∧ j.records = [r] ∧
        r.kind = 4) ∧
  (∀ (s u : State) (team : Nat), (s.team team).phase = .killing → s.drained (s.groupsOf team) = true →
    (s.endKill team = .ok u →
      Gives (.dbgKillComplete team) s fun t => t = u ∧ ((t.team team).phase = .done ∨ (t.team team).phase = .absent)) ∧
    ∀ c a, s.endKill team = .error (.fail c a) → Gives (.dbgKillComplete team) s fun t => t = s.endUnrecorded team c a ∧
      ((t.team team).phase = .done ∨ (t.team team).phase = .absent) ∧ team ∉ (t.core (s.team team).core).teamQ ∧
      (bit (s.part (s.team team).part).dbg.ctl 1 = false →
        ((s.part (s.team team).part).state = .run → HaltRaised s t (s.team team).part c (s.agentRecord 4 c a 0 0)) ∧
        ((s.part (s.team team).part).state ≠ .run → (t.part (s.team team).part).halt = (s.part (s.team team).part).halt))) ∧
  ∀ (s : State) (k : Nat) (c : Bool),
    let g := s.group k
    let d := (s.part g.part).dbg
    let period := field d.ctl 8 16 * 1024
    let now := (s.cluster (clusterOf (s.team g.team).core)).cycles
    period ≠ 0 → bit d.ctl 1 = true → g.sampled + period ≤ now → (s.team g.team).phase = .resident → g.retired = false →
    Gives (.traceSample k c) s fun t => SameButWake { g with sampled := now - (now - g.sampled) % period } (t.group k) ∧
      (∀ j, j ≠ k → SameButWake (s.group j) (t.group j)) ∧
      (t.part g.part).dbg.traceNs.get 0 (dieOf (s.team g.team).core) = s.pkg.ns.toNat

/-! ## The machine as a whole -/

/-- R18, R23, R26, R27, R29, R32, R34, R40, R43, R284: what reset leaves where the spec states it: every partition FREE with
a page of zeros, boost enabled with 64 permits and 8 slots, no core tested, no team, no group, and no transfer in
progress. -/
def Obligations.ResetValues : Prop :=
  let s := State.reset
  (∀ p, (s.part p).state = .free ∧ (∀ off, (s.part p).pageReg off = 0) ∧
    ∀ off, s.debugReg p off = 0) ∧
  (∀ c, (s.cluster c).en = true ∧ (s.cluster c).permits = 64 ∧ (s.cluster c).clk = 0 ∧ (s.cluster c).slot = none) ∧
  (∀ d, (s.boostDie d).slots = 8 ∧ (s.boostDie d).written = 8 ∧ s.bistDone d = false ∧ s.pkg.fence.get 0 d = 0) ∧
  s.pkg.ilv = 0 ∧ s.pkg.ppb = 0 ∧ s.pkg.netPorts = 0 ∧ s.pkg.netActive = 0 ∧ s.pkg.migCnt = 0 ∧ s.pkg.ns = 0 ∧
  s.teams = [] ∧ s.groups = [] ∧ s.pkg.moves = [] ∧ ∀ c, (s.core c).copyQ = [] ∧ (s.core c).matQ = []

/-- The state after reset is settled. -/
def Obligations.ResetSettled : Prop := Settled State.reset

/-- R9: between two steps memory is in its canonical form and nothing of an instruction is left half done. -/
def Obligations.SettledKept : Prop := ∀ s t : State, Settled s → step s = .next t → Settled t

/-- R121, R143, R314, R316: a turn of a stream, with no word under way, fetches the word at its PC and runs the
instruction it decodes to, which the fixed checks accept; a turn of an event runs that event; with no turn left a
nanosecond passes (the model's idle step, log 59). -/
def Obligations.StepRunsDecoded : Prop :=
  let settles := fun (s : State) (r : Res) => Res.andThen r fun u => u.settle s.mem
  (∀ (s s' : State) (dt k : Nat) (rest : List Turn) (w : Word32) (i : Instr),
    let e : State := { ({ s with agenda := rest }.elapse dt) with actor := k }
    s.agenda = { dt, act := .control k } :: rest → s.mid = [] → e.slotFree (e.portOf k).1 (e.portOf k).2 true = true →
    e.controlDue = true → e.fetchWatch true = none → e.g.walks true = false →
    e.fetch32 e.g.cpc = .ok (w, s') → decodeControl w = .ok i →
    i.wf = true ∧
    step s = settles s (Res.andThen (exec i s') fun t =>
      ((t.countControl s').keepWord true (w.setWidth 96) (s'.skidDue true)).note)) ∧
  (∀ (s s' : State) (dt k : Nat) (rest : List Turn) (w : LaneWord) (i : Instr),
    let e : State := { ({ s with agenda := rest }.elapse dt) with actor := k }
    s.agenda = { dt, act := .lane k } :: rest → s.mid = [] → e.slotFree (e.portOf k).1 (e.portOf k).2 false = true →
    e.laneDue = true → e.fetchWatch false = none → e.g.walks false = false → e.g.lpc < 2 ^ 17 → e.fetchLane e.g.lpc = .ok (w, s') → decodeLane w = .ok i → s'.g.cur ≠ 0 →
    ¬(s'.g.tx.depth ≠ 0 ∧ s'.g.skip = 0 ∧ s'.g.lpc = s'.g.tx.tgt.toNat) →
    i.wf = true ∧
    step s = settles s (Res.andThen (exec i (s'.setG { s'.g with lwait := none })) fun t =>
      ((t.countLane s' false).keepWord false w (s'.skidDue false)).note)) ∧
  (∀ (s : State) (dt : Nat) (rest : List Turn) (i : Instr),
    s.agenda = { dt, act := .event i } :: rest → s.mid = [] → isEvent i = true →
    step s = settles s (Res.andThen (exec i ({ s with agenda := rest }.elapse dt)) fun u => u.unlock i)) ∧
  (∀ s : State, s.agenda = [] → step s = .next ((s.elapse 1).settle s.mem)) ∧
  (∀ (s : State) (c late : Bool) (w : LaneWord) (i : Instr), s.mid = [] → (s.keepWord c w late).note = s ∧ s.unlock i = s) ∧
  ∀ s : State, SameBytes s (s.settle s.mem) ∧ (s.settle s.mem).free = s.free + 1

/-- R300-R316: words written out from the encoding tables decode to the instructions they stand for. -/
def Obligations.DecodedWords : Prop :=
  decodeTableWord 32 0x04304200 = some (.kaluAdd 3 1 2) ∧ decodeTableWord 32 0x2520C400 = some (.cmp 2 2 3 4) ∧
  decodeTableWord 32 0x7001C000 = some (.setfmt 7) ∧ decodeTableWord 32 0x70701000 = some (.getfmt 7) ∧
  decodeTableWord 32 0xB431C000 = some (.tdec 3 7) ∧ decodeTableWord 32 0xB8600000 = some (.rclaim 6) ∧
  decodeTableWord 32 0xBC000007 = some (.tfin 7) ∧ decodeTableWord 32 0xB0415048 = some (.tspawn 4 5 2 9) ∧
  decodeTableWord 32 0x80000500 = some (.barrive 1) ∧ decodeTableWord 32 0x39403FFF = some (.loop 20 0x3FFF)

/-- R299-R308, R314: a control word decodes to an instruction exactly if it is that instruction's encoding and the
instruction is well formed. -/
def Obligations.ControlRoundTrip : Prop :=
  ∀ (i : Instr) (w : Word32), decodeControl w = .ok i ↔ i.wf = true ∧ encode i = .control w

/-- R309-R314: the same of lane words. -/
def Obligations.LaneRoundTrip : Prop :=
  ∀ (i : Instr) (w : LaneWord), decodeLane w = .ok i ↔ i.wf = true ∧ encode i = .lane w

/-- R16, R148, R155-R158, R165: the checks of an access, in their order; for an access outside the windows the walk, level by
level: the entry of each level with what it fails, the leaf, the permissions, and the physical address.  A block with a
contiguous hint (R159) is left out of the level-1 clauses. -/
def Obligations.AddressChecks : Prop :=
  ∀ (s : State) (team n : Nat) (addr : Word) (need : Need) (nc : Bool),
    let c := s.check team addr n need nc
    let part := (s.team team).part
    let root := field (s.part part).page.ptRoot 12 40 * 4096
    let memory := fun (pa : Nat) => inHbm pa = true ∨ s.pkg.inTier pa = true
    let index := fun (level : Nat) => addr.toNat / 2 ^ (12 + 9 * (level - 1)) % 512
    let e5 := s.wordAt (root + 8 * index 5)
    let e4 := s.wordAt (pteBase e5 + 8 * index 4)
    let e3 := s.wordAt (pteBase e4 + 8 * index 3)
    let e2 := s.wordAt (pteBase e3 + 8 * index 2)
    let e1 := s.wordAt (pteBase e2 + 8 * index 1)
    let entry := fun (level : Nat) => if level = 5 then e5 else if level = 4 then e4 else if level = 3 then e3 else if level = 2 then e2 else e1
    let table := fun (e : Word) => bit e 0 = true ∧ bit e 1 = false ∧ bit e 4 = false ∧ bit e 6 = false ∧ bit e 7 = false ∧
      bit e 8 = false ∧ bit e 9 = false ∧ memory (pteBase e)
    let all := fun (level i : Nat) => ∀ m, level ≤ m → m ≤ 5 → bit (entry m) i = true
    (s.window team addr = some none → c = .fault causeBadWindow) ∧
    (∀ t, s.window team addr = some (some t) → c = if addr.toNat % n ≠ 0 then .fault causeMisaligned else .ok t [] 0 0) ∧
    (s.window team addr = none → 2 ^ 57 ≤ addr.toNat → c = .fault causeBadWindow) ∧
    (s.window team addr = none → addr.toNat < 2 ^ 57 → addr.toNat % n ≠ 0 → c = .fault causeMisaligned) ∧
    (s.window team addr = none → addr.toNat < 2 ^ 57 → addr.toNat % n = 0 →
      (¬memory root → c = .fault causePageRange) ∧
      (memory root → ∀ n, 1 ≤ n → n ≤ 5 → (∀ m, n < m → m ≤ 5 → table (entry m)) →
        (n = 1 → ∀ j, j < 16 → bit (s.wordAt (pteBase e2 + 8 * (index 1 / 16 * 16 + j))) 4 = false) →
        let e := entry n
        let pa := pteBase e + addr.toNat % 2 ^ (12 + 9 * (n - 1))
        let bad := (n ≠ 1 ∧ bit e 4 = true) ∨ (n = 2 ∧ field e 12 9 ≠ 0) ∨ (n = 3 ∧ field e 12 18 ≠ 0) ∨
          ((inHbm (pteBase e) = true ∨ inSystem (pteBase e) = true) ∧ bit e 7 = true) ∨
          (inHbm (pteBase e) = false ∧ inSystem (pteBase e) = false ∧ s.pkg.inTier (pteBase e) = true ∧ bit e 7 = false)
        let permitted := (need = .write → all n 2) ∧ (need = .exec → all n 3)
        (bit e 0 = false → c = .fault causePageInvalid) ∧
        (bit e 0 = true → bit e 1 = true → n ≠ 2 → n ≠ 3 → c = .fault causePageFormat) ∧
        (bit e 0 = true → bit e 1 = false → n ≠ 1 → ¬table e → c = .fault causePageFormat) ∧
        (bit e 0 = true → ((n = 1 ∧ bit e 1 = false) ∨ ((n = 2 ∨ n = 3) ∧ bit e 1 = true)) →
          (bad → c = .fault causePageFormat) ∧
          (¬bad → ¬permitted → c = .fault causePageProt) ∧
          (¬bad → permitted → ¬(memory pa ∨ inSystem pa = true) → c = .fault causePageRange) ∧
          (¬bad → permitted → memory pa ∨ inSystem pa = true → ∃ marks, s.walk part addr.toNat need = .ok pa e marks))) ∧
      (∀ x, s.walk part addr.toNat need = .fail x → c = .fault x) ∧
      ∀ pa leaf marks, s.walk part addr.toNat need = .ok pa leaf marks →
        (∀ a, targetOf pa = .host a false → s.pkg.hostUp = false → c = .fault causeHostAbort) ∧
        (∀ a, targetOf pa = .host a false → s.pkg.hostUp = true → nc = true → c = .fault causeNcAtomic) ∧
        (∀ a, targetOf pa = .host a true → SMap.find? s.pkg.poison (hostLine a) ≠ none → c = .fault causeLinkPoison) ∧
        (∀ x, targetOf pa = .dev x → bit leaf 9 = true → c = .busy) ∧
        (∀ x, targetOf pa = .dev x → bit leaf 9 = false → bit leaf 7 = false → c = .ok (.dev x) marks 0 0) ∧
        (inHbm pa = true ∨ s.pkg.inTier pa = true ∨ inSystem pa = true)) ∧
    ((s.team team).type.spad * 1024 ≤ addr.toNat % 2 ^ 24 → addr.toNat / 2 ^ 24 = 0x8000000000 → c = .fault causeBadWindow)

/-- R28, R29, R111, R112, R113: as time passes the nanosecond counter advances, no register and no byte of memory
changes, and each cycle of a group counts once, as an issue cycle or in one stall counter, that of the first reason that
holds where one does. -/
def Obligations.TimeAndStalls : Prop :=
  (∀ (s : State) (dt : Nat),
    let t := s.elapse dt
    SameBytes s t ∧ t.teams = s.teams ∧ t.parts = s.parts ∧
    (∀ k, ∃ stall cycles issues clocks watch c l, t.group k = { s.group k with
      stall, groupCycles := cycles, issueCycles := issues, issued := clocks, tx := { (s.group k).tx with watch }
      cwait := c, lwait := l }) ∧
    (s.pkg.ppb = 0 → s.pkg.slew = 0 → s.pkg.slewFrac = 0 → 0 ≤ s.pkg.rateFrac → s.pkg.rateFrac < nsUnit →
      t.pkg.ns = s.pkg.ns + BitVec.ofNat 64 dt) ∧
    (0 < dt → ∀ c, c < 64 → (t.cluster c).cycles = (s.cluster c).cycles + (s.cluster c).gain dt)) ∧
  ∀ (g : Group) (start n th last free k : Nat) (first rest : Option Wait × Option Wait),
    let h := g.spend start n th last first rest free k
    let issues := min n (g.issued.filter (· < start + n)).length
    let total := fun (x : Group) => ((List.range 16).map fun r => (x.stall.get 0 r).toNat).sum
    (∀ r, r < 16 → (g.stall.get 0 r).toNat + n < 2 ^ 32) →
    h.groupCycles = g.groupCycles + n ∧ h.issueCycles = g.issueCycles + issues ∧
    h.issueCycles + total h = g.issueCycles + total g + n ∧
    (th = 0 → ∀ x y, (g.reasons first.1 first.2).min? = some x → (g.reasons rest.1 rest.2).min? = some y → x ≤ 13 → y ≤ 13 →
      ∀ q, q < 16 → (h.stall.get 0 q).toNat = (g.stall.get 0 q).toNat +
        (if q = x ∧ issues < n then 1 else 0) + (if q = y then n - issues - 1 else 0)) ∧
    (g.reasons first.1 first.2 = [] → g.reasons rest.1 rest.2 = [] →
      (h.stall.get 0 15).toNat ≤ (g.stall.get 0 15).toNat + (last - start))

end Slice0
end

