-- ==== Sys2Proof/Laws/Map.lean ====
section
/-! SUPPORT. Sys2Proof/Laws/Map.lean: sparse tables read back what was written, and keep their canonical form. -/

namespace Sys2Proof.Machine

variable {α : Type}

theorem SMap.get_eq_find? (d : α) (m : SMap α) (k : Nat) : SMap.get d m k = (SMap.find? m k).getD d := by
  induction m with
  | nil => rfl
  | cons x m ih =>
    obtain ⟨i, v⟩ := x
    simp only [SMap.get, SMap.find?]
    split <;> simp [ih]

theorem SMap.find?_del (m : SMap α) (k j : Nat) :
    SMap.find? (SMap.del m k) j = if j = k then none else SMap.find? m j := by
  induction m with
  | nil => simp [SMap.del, SMap.find?]
  | cons x m ih =>
    obtain ⟨i, v⟩ := x
    simp only [SMap.del, SMap.find?, beq_iff_eq]
    by_cases h : i = k
    · simp only [h, if_true, ih]
      by_cases hj : j = k
      · simp [hj]
      · simp [hj, Ne.symm hj]
    · simp only [h, if_false, SMap.find?, beq_iff_eq, ih]
      by_cases hj : j = k
      · subst hj; simp [h]
      · simp [hj]

theorem SMap.find?_insert (m : SMap α) (k j : Nat) (v : α) (h : SMap.find? m k = none) :
    SMap.find? (SMap.insert k v m) j = if j = k then some v else SMap.find? m j := by
  induction m with
  | nil => simp [SMap.insert, SMap.find?, beq_iff_eq, eq_comm (a := k)]
  | cons x m ih =>
    obtain ⟨i, w⟩ := x
    simp only [SMap.find?, beq_iff_eq] at h
    by_cases hi : i = k
    · simp [hi] at h
    · rw [if_neg hi] at h
      simp only [SMap.insert]
      split
      · simp [SMap.find?, beq_iff_eq, eq_comm (a := k)]
      · simp only [SMap.find?, beq_iff_eq, ih h]
        by_cases hj : j = k
        · subst hj; simp [hi]
        · simp [hj]

@[simp] theorem SMap.find?_put (m : SMap α) (k j : Nat) (v : α) :
    SMap.find? (SMap.put m k v) j = if j = k then some v else SMap.find? m j := by
  rw [SMap.put, SMap.find?_insert _ _ _ _ (by simp [SMap.find?_del]), SMap.find?_del]
  split <;> simp [*]

@[simp] theorem SMap.get_put (d : α) (m : SMap α) (k j : Nat) (v : α) :
    SMap.get d (SMap.put m k v) j = if j = k then v else SMap.get d m j := by
  simp only [SMap.get_eq_find?, SMap.find?_put]
  split <;> simp

/-- Changing every value of a table, in a way that keeps the default. -/
theorem SMap.get_map (d : α) (f : Nat → α → α) (m : SMap α) (k : Nat) (h : f k d = d) :
    SMap.get d (m.map fun x => (x.1, f x.1 x.2)) k = f k (SMap.get d m k) := by
  induction m with
  | nil => exact h.symm
  | cons x m ih =>
    obtain ⟨i, v⟩ := x
    simp only [List.map_cons, SMap.get, beq_iff_eq]
    by_cases e : i = k
    · subst e; simp
    · rw [if_neg e, if_neg e, ih]

theorem SMap.get_put_self (d : α) (m : SMap α) (k : Nat) (v : α) : SMap.get d (SMap.put m k v) k = v := by simp

theorem SMap.get_put_ne (d : α) (m : SMap α) (k j : Nat) (v : α) (h : j ≠ k) :
    SMap.get d (SMap.put m k v) j = SMap.get d m j := by simp [h]

@[simp] theorem SMap.get_set [DecidableEq α] (d : α) (m : SMap α) (k j : Nat) (v : α) :
    SMap.get d (SMap.set d m k v) j = if j = k then v else SMap.get d m j := by
  rw [SMap.set]
  by_cases h : v = d
  · rw [if_pos h, SMap.get_eq_find?, SMap.find?_del]
    split
    · simp [h]
    · simp [SMap.get_eq_find?]
  · rw [if_neg h, SMap.get_put]

theorem SMap.rising_mono {m : SMap α} {n k : Nat} (h : SMap.rising n m = true) (hk : k ≤ n) : SMap.rising k m = true := by
  cases m with
  | nil => rfl
  | cons x m =>
    obtain ⟨i, v⟩ := x
    simp only [SMap.rising, Bool.and_eq_true, decide_eq_true_eq] at h ⊢
    exact ⟨Nat.le_trans hk h.1, h.2⟩

theorem SMap.rising_del {m : SMap α} {n : Nat} (k : Nat) (h : SMap.rising n m = true) :
    SMap.rising n (SMap.del m k) = true := by
  induction m generalizing n with
  | nil => rfl
  | cons x m ih =>
    obtain ⟨i, v⟩ := x
    simp only [SMap.rising, Bool.and_eq_true, decide_eq_true_eq] at h
    simp only [SMap.del]
    split
    · exact SMap.rising_mono (ih h.2) (Nat.le_succ_of_le h.1)
    · simp [SMap.rising, h.1, ih h.2]

theorem SMap.rising_insert {m : SMap α} {n k : Nat} (v : α) (h : SMap.rising n m = true)
    (hk : SMap.find? m k = none) (hn : n ≤ k) : SMap.rising n (SMap.insert k v m) = true := by
  induction m generalizing n with
  | nil => simp [SMap.insert, SMap.rising, hn]
  | cons x m ih =>
    obtain ⟨i, w⟩ := x
    simp only [SMap.rising, Bool.and_eq_true, decide_eq_true_eq] at h
    simp only [SMap.find?, beq_iff_eq] at hk
    have hi : i ≠ k := by
      rintro rfl
      simp at hk
    rw [if_neg hi] at hk
    simp only [SMap.insert]
    split
    · rename_i hki
      simp [SMap.rising, hn, h.2]
      omega
    · rename_i hki
      simp only [SMap.rising, Bool.and_eq_true, decide_eq_true_eq]
      exact ⟨h.1, ih h.2 hk (by omega)⟩

theorem SMap.rising_put {m : SMap α} (k : Nat) (v : α) (h : SMap.rising 0 m = true) :
    SMap.rising 0 (SMap.put m k v) = true :=
  SMap.rising_insert v (SMap.rising_del k h) (by simp [SMap.find?_del]) (Nat.zero_le _)

theorem SMap.mem_insert {m : SMap α} {k : Nat} {v : α} {c : Nat × α} (h : c ∈ SMap.insert k v m) :
    c = (k, v) ∨ c ∈ m := by
  induction m with
  | nil => simpa [SMap.insert] using h
  | cons x m ih =>
    obtain ⟨i, w⟩ := x
    simp only [SMap.insert] at h
    split at h
    · simpa using h
    · rcases List.mem_cons.mp h with h | h
      · exact .inr (by simp [h])
      · rcases ih h with h | h
        · exact .inl h
        · exact .inr (by simp [h])

theorem SMap.mem_del {m : SMap α} {k : Nat} {c : Nat × α} (h : c ∈ SMap.del m k) : c ∈ m := by
  induction m with
  | nil => simp [SMap.del] at h
  | cons x m ih =>
    obtain ⟨i, w⟩ := x
    simp only [SMap.del] at h
    split at h
    · exact List.mem_cons_of_mem _ (ih h)
    · rcases List.mem_cons.mp h with h | h
      · simp [h]
      · exact List.mem_cons_of_mem _ (ih h)

end Sys2Proof.Machine
end

