-- ==== Sys2Proof/Laws/State.lean ====
section
/-! SUPPORT. Sys2Proof/Laws/State.lean: what the updates of the state leave alone: one lemma for each field and update, true
by definition, and what reading a record after an update gives. -/

namespace Sys2Proof.Machine

@[simp] theorem State.setG_pkg (s : State) (g : Group) : (s.setG g).pkg = s.pkg := rfl
@[simp] theorem State.setG_parts (s : State) (g : Group) : (s.setG g).parts = s.parts := rfl
@[simp] theorem State.setG_clusters (s : State) (g : Group) : (s.setG g).clusters = s.clusters := rfl
@[simp] theorem State.setG_cores (s : State) (g : Group) : (s.setG g).cores = s.cores := rfl
@[simp] theorem State.setG_teams (s : State) (g : Group) : (s.setG g).teams = s.teams := rfl
@[simp] theorem State.setG_nextTeam (s : State) (g : Group) : (s.setG g).nextTeam = s.nextTeam := rfl
@[simp] theorem State.setG_nextCmd (s : State) (g : Group) : (s.setG g).nextCmd = s.nextCmd := rfl
@[simp] theorem State.setG_slicePtr (s : State) (g : Group) : (s.setG g).slicePtr = s.slicePtr := rfl
@[simp] theorem State.setG_mem (s : State) (g : Group) : (s.setG g).mem = s.mem := rfl
@[simp] theorem State.setG_stores (s : State) (g : Group) : (s.setG g).stores = s.stores := rfl
@[simp] theorem State.setG_actor (s : State) (g : Group) : (s.setG g).actor = s.actor := rfl
@[simp] theorem State.setG_free (s : State) (g : Group) : (s.setG g).free = s.free := rfl
@[simp] theorem State.setG_phys (s : State) (g : Group) : (s.setG g).phys = s.phys := rfl
@[simp] theorem State.setG_limit (s : State) (g : Group) : (s.setG g).limit = s.limit := rfl
@[simp] theorem State.setG_mid (s : State) (g : Group) : (s.setG g).mid = s.mid := rfl
@[simp] theorem State.setG_agenda (s : State) (g : Group) : (s.setG g).agenda = s.agenda := rfl
@[simp] theorem State.setG_accesses (s : State) (g : Group) : (s.setG g).accesses = s.accesses := rfl
@[simp] theorem State.setG_hit (s : State) (g : Group) : (s.setG g).hit = s.hit := rfl
@[simp] theorem State.setG_starved (s : State) (g : Group) : (s.setG g).starved = s.starved := rfl
@[simp] theorem State.setG_own (s : State) (g : Group) : (s.setG g).own = s.own := rfl
@[simp] theorem State.setG_tags (s : State) (g : Group) : (s.setG g).tags = s.tags := rfl
@[simp] theorem State.setG_paged (s : State) (g : Group) : (s.setG g).paged = s.paged := rfl
@[simp] theorem State.setG_walked (s : State) (g : Group) : (s.setG g).walked = s.walked := rfl

@[simp] theorem State.setTeam_pkg (s : State) (k : Nat) (x : Team) : (s.setTeam k x).pkg = s.pkg := rfl
@[simp] theorem State.setTeam_parts (s : State) (k : Nat) (x : Team) : (s.setTeam k x).parts = s.parts := rfl
@[simp] theorem State.setTeam_clusters (s : State) (k : Nat) (x : Team) : (s.setTeam k x).clusters = s.clusters := rfl
@[simp] theorem State.setTeam_cores (s : State) (k : Nat) (x : Team) : (s.setTeam k x).cores = s.cores := rfl
@[simp] theorem State.setTeam_nextTeam (s : State) (k : Nat) (x : Team) : (s.setTeam k x).nextTeam = s.nextTeam := rfl
@[simp] theorem State.setTeam_groups (s : State) (k : Nat) (x : Team) : (s.setTeam k x).groups = s.groups := rfl
@[simp] theorem State.setTeam_nextCmd (s : State) (k : Nat) (x : Team) : (s.setTeam k x).nextCmd = s.nextCmd := rfl
@[simp] theorem State.setTeam_slicePtr (s : State) (k : Nat) (x : Team) : (s.setTeam k x).slicePtr = s.slicePtr := rfl
@[simp] theorem State.setTeam_mem (s : State) (k : Nat) (x : Team) : (s.setTeam k x).mem = s.mem := rfl
@[simp] theorem State.setTeam_stores (s : State) (k : Nat) (x : Team) : (s.setTeam k x).stores = s.stores := rfl
@[simp] theorem State.setTeam_actor (s : State) (k : Nat) (x : Team) : (s.setTeam k x).actor = s.actor := rfl
@[simp] theorem State.setTeam_free (s : State) (k : Nat) (x : Team) : (s.setTeam k x).free = s.free := rfl
@[simp] theorem State.setTeam_phys (s : State) (k : Nat) (x : Team) : (s.setTeam k x).phys = s.phys := rfl
@[simp] theorem State.setTeam_limit (s : State) (k : Nat) (x : Team) : (s.setTeam k x).limit = s.limit := rfl
@[simp] theorem State.setTeam_mid (s : State) (k : Nat) (x : Team) : (s.setTeam k x).mid = s.mid := rfl
@[simp] theorem State.setTeam_agenda (s : State) (k : Nat) (x : Team) : (s.setTeam k x).agenda = s.agenda := rfl
@[simp] theorem State.setTeam_accesses (s : State) (k : Nat) (x : Team) : (s.setTeam k x).accesses = s.accesses := rfl
@[simp] theorem State.setTeam_hit (s : State) (k : Nat) (x : Team) : (s.setTeam k x).hit = s.hit := rfl
@[simp] theorem State.setTeam_starved (s : State) (k : Nat) (x : Team) : (s.setTeam k x).starved = s.starved := rfl
@[simp] theorem State.setTeam_own (s : State) (k : Nat) (x : Team) : (s.setTeam k x).own = s.own := rfl
@[simp] theorem State.setTeam_tags (s : State) (k : Nat) (x : Team) : (s.setTeam k x).tags = s.tags := rfl
@[simp] theorem State.setTeam_paged (s : State) (k : Nat) (x : Team) : (s.setTeam k x).paged = s.paged := rfl
@[simp] theorem State.setTeam_walked (s : State) (k : Nat) (x : Team) : (s.setTeam k x).walked = s.walked := rfl

@[simp] theorem State.setT_pkg (s : State) (x : Team) : (s.setT x).pkg = s.pkg := rfl
@[simp] theorem State.setT_parts (s : State) (x : Team) : (s.setT x).parts = s.parts := rfl
@[simp] theorem State.setT_clusters (s : State) (x : Team) : (s.setT x).clusters = s.clusters := rfl
@[simp] theorem State.setT_cores (s : State) (x : Team) : (s.setT x).cores = s.cores := rfl
@[simp] theorem State.setT_nextTeam (s : State) (x : Team) : (s.setT x).nextTeam = s.nextTeam := rfl
@[simp] theorem State.setT_groups (s : State) (x : Team) : (s.setT x).groups = s.groups := rfl
@[simp] theorem State.setT_nextCmd (s : State) (x : Team) : (s.setT x).nextCmd = s.nextCmd := rfl
@[simp] theorem State.setT_slicePtr (s : State) (x : Team) : (s.setT x).slicePtr = s.slicePtr := rfl
@[simp] theorem State.setT_mem (s : State) (x : Team) : (s.setT x).mem = s.mem := rfl
@[simp] theorem State.setT_stores (s : State) (x : Team) : (s.setT x).stores = s.stores := rfl
@[simp] theorem State.setT_actor (s : State) (x : Team) : (s.setT x).actor = s.actor := rfl
@[simp] theorem State.setT_free (s : State) (x : Team) : (s.setT x).free = s.free := rfl
@[simp] theorem State.setT_phys (s : State) (x : Team) : (s.setT x).phys = s.phys := rfl
@[simp] theorem State.setT_limit (s : State) (x : Team) : (s.setT x).limit = s.limit := rfl
@[simp] theorem State.setT_mid (s : State) (x : Team) : (s.setT x).mid = s.mid := rfl
@[simp] theorem State.setT_agenda (s : State) (x : Team) : (s.setT x).agenda = s.agenda := rfl
@[simp] theorem State.setT_accesses (s : State) (x : Team) : (s.setT x).accesses = s.accesses := rfl
@[simp] theorem State.setT_hit (s : State) (x : Team) : (s.setT x).hit = s.hit := rfl
@[simp] theorem State.setT_starved (s : State) (x : Team) : (s.setT x).starved = s.starved := rfl
@[simp] theorem State.setT_own (s : State) (x : Team) : (s.setT x).own = s.own := rfl
@[simp] theorem State.setT_tags (s : State) (x : Team) : (s.setT x).tags = s.tags := rfl
@[simp] theorem State.setT_paged (s : State) (x : Team) : (s.setT x).paged = s.paged := rfl
@[simp] theorem State.setT_walked (s : State) (x : Team) : (s.setT x).walked = s.walked := rfl

@[simp] theorem State.setPart_pkg (s : State) (k : Nat) (x : Partition) : (s.setPart k x).pkg = s.pkg := rfl
@[simp] theorem State.setPart_clusters (s : State) (k : Nat) (x : Partition) : (s.setPart k x).clusters = s.clusters := rfl
@[simp] theorem State.setPart_cores (s : State) (k : Nat) (x : Partition) : (s.setPart k x).cores = s.cores := rfl
@[simp] theorem State.setPart_teams (s : State) (k : Nat) (x : Partition) : (s.setPart k x).teams = s.teams := rfl
@[simp] theorem State.setPart_nextTeam (s : State) (k : Nat) (x : Partition) : (s.setPart k x).nextTeam = s.nextTeam := rfl
@[simp] theorem State.setPart_groups (s : State) (k : Nat) (x : Partition) : (s.setPart k x).groups = s.groups := rfl
@[simp] theorem State.setPart_nextCmd (s : State) (k : Nat) (x : Partition) : (s.setPart k x).nextCmd = s.nextCmd := rfl
@[simp] theorem State.setPart_slicePtr (s : State) (k : Nat) (x : Partition) : (s.setPart k x).slicePtr = s.slicePtr := rfl
@[simp] theorem State.setPart_mem (s : State) (k : Nat) (x : Partition) : (s.setPart k x).mem = s.mem := rfl
@[simp] theorem State.setPart_stores (s : State) (k : Nat) (x : Partition) : (s.setPart k x).stores = s.stores := rfl
@[simp] theorem State.setPart_actor (s : State) (k : Nat) (x : Partition) : (s.setPart k x).actor = s.actor := rfl
@[simp] theorem State.setPart_free (s : State) (k : Nat) (x : Partition) : (s.setPart k x).free = s.free := rfl
@[simp] theorem State.setPart_phys (s : State) (k : Nat) (x : Partition) : (s.setPart k x).phys = s.phys := rfl
@[simp] theorem State.setPart_limit (s : State) (k : Nat) (x : Partition) : (s.setPart k x).limit = s.limit := rfl
@[simp] theorem State.setPart_mid (s : State) (k : Nat) (x : Partition) : (s.setPart k x).mid = s.mid := rfl
@[simp] theorem State.setPart_agenda (s : State) (k : Nat) (x : Partition) : (s.setPart k x).agenda = s.agenda := rfl
@[simp] theorem State.setPart_accesses (s : State) (k : Nat) (x : Partition) : (s.setPart k x).accesses = s.accesses := rfl
@[simp] theorem State.setPart_hit (s : State) (k : Nat) (x : Partition) : (s.setPart k x).hit = s.hit := rfl
@[simp] theorem State.setPart_starved (s : State) (k : Nat) (x : Partition) : (s.setPart k x).starved = s.starved := rfl
@[simp] theorem State.setPart_own (s : State) (k : Nat) (x : Partition) : (s.setPart k x).own = s.own := rfl
@[simp] theorem State.setPart_tags (s : State) (k : Nat) (x : Partition) : (s.setPart k x).tags = s.tags := rfl
@[simp] theorem State.setPart_paged (s : State) (k : Nat) (x : Partition) : (s.setPart k x).paged = s.paged := rfl
@[simp] theorem State.setPart_walked (s : State) (k : Nat) (x : Partition) : (s.setPart k x).walked = s.walked := rfl

@[simp] theorem State.setP_pkg (s : State) (x : Partition) : (s.setP x).pkg = s.pkg := rfl
@[simp] theorem State.setP_clusters (s : State) (x : Partition) : (s.setP x).clusters = s.clusters := rfl
@[simp] theorem State.setP_cores (s : State) (x : Partition) : (s.setP x).cores = s.cores := rfl
@[simp] theorem State.setP_teams (s : State) (x : Partition) : (s.setP x).teams = s.teams := rfl
@[simp] theorem State.setP_nextTeam (s : State) (x : Partition) : (s.setP x).nextTeam = s.nextTeam := rfl
@[simp] theorem State.setP_groups (s : State) (x : Partition) : (s.setP x).groups = s.groups := rfl
@[simp] theorem State.setP_nextCmd (s : State) (x : Partition) : (s.setP x).nextCmd = s.nextCmd := rfl
@[simp] theorem State.setP_slicePtr (s : State) (x : Partition) : (s.setP x).slicePtr = s.slicePtr := rfl
@[simp] theorem State.setP_mem (s : State) (x : Partition) : (s.setP x).mem = s.mem := rfl
@[simp] theorem State.setP_stores (s : State) (x : Partition) : (s.setP x).stores = s.stores := rfl
@[simp] theorem State.setP_actor (s : State) (x : Partition) : (s.setP x).actor = s.actor := rfl
@[simp] theorem State.setP_free (s : State) (x : Partition) : (s.setP x).free = s.free := rfl
@[simp] theorem State.setP_phys (s : State) (x : Partition) : (s.setP x).phys = s.phys := rfl
@[simp] theorem State.setP_limit (s : State) (x : Partition) : (s.setP x).limit = s.limit := rfl
@[simp] theorem State.setP_mid (s : State) (x : Partition) : (s.setP x).mid = s.mid := rfl
@[simp] theorem State.setP_agenda (s : State) (x : Partition) : (s.setP x).agenda = s.agenda := rfl
@[simp] theorem State.setP_accesses (s : State) (x : Partition) : (s.setP x).accesses = s.accesses := rfl
@[simp] theorem State.setP_hit (s : State) (x : Partition) : (s.setP x).hit = s.hit := rfl
@[simp] theorem State.setP_starved (s : State) (x : Partition) : (s.setP x).starved = s.starved := rfl
@[simp] theorem State.setP_own (s : State) (x : Partition) : (s.setP x).own = s.own := rfl
@[simp] theorem State.setP_tags (s : State) (x : Partition) : (s.setP x).tags = s.tags := rfl
@[simp] theorem State.setP_paged (s : State) (x : Partition) : (s.setP x).paged = s.paged := rfl
@[simp] theorem State.setP_walked (s : State) (x : Partition) : (s.setP x).walked = s.walked := rfl

@[simp] theorem State.setCore_pkg (s : State) (k : Nat) (x : Core) : (s.setCore k x).pkg = s.pkg := rfl
@[simp] theorem State.setCore_parts (s : State) (k : Nat) (x : Core) : (s.setCore k x).parts = s.parts := rfl
@[simp] theorem State.setCore_clusters (s : State) (k : Nat) (x : Core) : (s.setCore k x).clusters = s.clusters := rfl
@[simp] theorem State.setCore_teams (s : State) (k : Nat) (x : Core) : (s.setCore k x).teams = s.teams := rfl
@[simp] theorem State.setCore_nextTeam (s : State) (k : Nat) (x : Core) : (s.setCore k x).nextTeam = s.nextTeam := rfl
@[simp] theorem State.setCore_groups (s : State) (k : Nat) (x : Core) : (s.setCore k x).groups = s.groups := rfl
@[simp] theorem State.setCore_nextCmd (s : State) (k : Nat) (x : Core) : (s.setCore k x).nextCmd = s.nextCmd := rfl
@[simp] theorem State.setCore_slicePtr (s : State) (k : Nat) (x : Core) : (s.setCore k x).slicePtr = s.slicePtr := rfl
@[simp] theorem State.setCore_mem (s : State) (k : Nat) (x : Core) : (s.setCore k x).mem = s.mem := rfl
@[simp] theorem State.setCore_stores (s : State) (k : Nat) (x : Core) : (s.setCore k x).stores = s.stores := rfl
@[simp] theorem State.setCore_actor (s : State) (k : Nat) (x : Core) : (s.setCore k x).actor = s.actor := rfl
@[simp] theorem State.setCore_free (s : State) (k : Nat) (x : Core) : (s.setCore k x).free = s.free := rfl
@[simp] theorem State.setCore_phys (s : State) (k : Nat) (x : Core) : (s.setCore k x).phys = s.phys := rfl
@[simp] theorem State.setCore_limit (s : State) (k : Nat) (x : Core) : (s.setCore k x).limit = s.limit := rfl
@[simp] theorem State.setCore_mid (s : State) (k : Nat) (x : Core) : (s.setCore k x).mid = s.mid := rfl
@[simp] theorem State.setCore_agenda (s : State) (k : Nat) (x : Core) : (s.setCore k x).agenda = s.agenda := rfl
@[simp] theorem State.setCore_accesses (s : State) (k : Nat) (x : Core) : (s.setCore k x).accesses = s.accesses := rfl
@[simp] theorem State.setCore_hit (s : State) (k : Nat) (x : Core) : (s.setCore k x).hit = s.hit := rfl
@[simp] theorem State.setCore_starved (s : State) (k : Nat) (x : Core) : (s.setCore k x).starved = s.starved := rfl
@[simp] theorem State.setCore_own (s : State) (k : Nat) (x : Core) : (s.setCore k x).own = s.own := rfl
@[simp] theorem State.setCore_tags (s : State) (k : Nat) (x : Core) : (s.setCore k x).tags = s.tags := rfl
@[simp] theorem State.setCore_paged (s : State) (k : Nat) (x : Core) : (s.setCore k x).paged = s.paged := rfl
@[simp] theorem State.setCore_walked (s : State) (k : Nat) (x : Core) : (s.setCore k x).walked = s.walked := rfl

@[simp] theorem State.mapGroup_pkg (s : State) (k : Nat) (f : Group → Group) : (s.mapGroup k f).pkg = s.pkg := rfl
@[simp] theorem State.mapGroup_parts (s : State) (k : Nat) (f : Group → Group) : (s.mapGroup k f).parts = s.parts := rfl
@[simp] theorem State.mapGroup_clusters (s : State) (k : Nat) (f : Group → Group) : (s.mapGroup k f).clusters = s.clusters := rfl
@[simp] theorem State.mapGroup_cores (s : State) (k : Nat) (f : Group → Group) : (s.mapGroup k f).cores = s.cores := rfl
@[simp] theorem State.mapGroup_teams (s : State) (k : Nat) (f : Group → Group) : (s.mapGroup k f).teams = s.teams := rfl
@[simp] theorem State.mapGroup_nextTeam (s : State) (k : Nat) (f : Group → Group) : (s.mapGroup k f).nextTeam = s.nextTeam := rfl
@[simp] theorem State.mapGroup_nextCmd (s : State) (k : Nat) (f : Group → Group) : (s.mapGroup k f).nextCmd = s.nextCmd := rfl
@[simp] theorem State.mapGroup_slicePtr (s : State) (k : Nat) (f : Group → Group) : (s.mapGroup k f).slicePtr = s.slicePtr := rfl
@[simp] theorem State.mapGroup_mem (s : State) (k : Nat) (f : Group → Group) : (s.mapGroup k f).mem = s.mem := rfl
@[simp] theorem State.mapGroup_stores (s : State) (k : Nat) (f : Group → Group) : (s.mapGroup k f).stores = s.stores := rfl
@[simp] theorem State.mapGroup_actor (s : State) (k : Nat) (f : Group → Group) : (s.mapGroup k f).actor = s.actor := rfl
@[simp] theorem State.mapGroup_free (s : State) (k : Nat) (f : Group → Group) : (s.mapGroup k f).free = s.free := rfl
@[simp] theorem State.mapGroup_phys (s : State) (k : Nat) (f : Group → Group) : (s.mapGroup k f).phys = s.phys := rfl
@[simp] theorem State.mapGroup_limit (s : State) (k : Nat) (f : Group → Group) : (s.mapGroup k f).limit = s.limit := rfl
@[simp] theorem State.mapGroup_mid (s : State) (k : Nat) (f : Group → Group) : (s.mapGroup k f).mid = s.mid := rfl
@[simp] theorem State.mapGroup_agenda (s : State) (k : Nat) (f : Group → Group) : (s.mapGroup k f).agenda = s.agenda := rfl
@[simp] theorem State.mapGroup_accesses (s : State) (k : Nat) (f : Group → Group) : (s.mapGroup k f).accesses = s.accesses := rfl
@[simp] theorem State.mapGroup_hit (s : State) (k : Nat) (f : Group → Group) : (s.mapGroup k f).hit = s.hit := rfl
@[simp] theorem State.mapGroup_starved (s : State) (k : Nat) (f : Group → Group) : (s.mapGroup k f).starved = s.starved := rfl
@[simp] theorem State.mapGroup_own (s : State) (k : Nat) (f : Group → Group) : (s.mapGroup k f).own = s.own := rfl
@[simp] theorem State.mapGroup_tags (s : State) (k : Nat) (f : Group → Group) : (s.mapGroup k f).tags = s.tags := rfl
@[simp] theorem State.mapGroup_paged (s : State) (k : Nat) (f : Group → Group) : (s.mapGroup k f).paged = s.paged := rfl
@[simp] theorem State.mapGroup_walked (s : State) (k : Nat) (f : Group → Group) : (s.mapGroup k f).walked = s.walked := rfl

@[simp] theorem State.setBytes_pkg (s : State) (a : Nat) (bs : List Byte) : (s.setBytes a bs).pkg = s.pkg := rfl
@[simp] theorem State.setBytes_parts (s : State) (a : Nat) (bs : List Byte) : (s.setBytes a bs).parts = s.parts := rfl
@[simp] theorem State.setBytes_clusters (s : State) (a : Nat) (bs : List Byte) : (s.setBytes a bs).clusters = s.clusters := rfl
@[simp] theorem State.setBytes_cores (s : State) (a : Nat) (bs : List Byte) : (s.setBytes a bs).cores = s.cores := rfl
@[simp] theorem State.setBytes_teams (s : State) (a : Nat) (bs : List Byte) : (s.setBytes a bs).teams = s.teams := rfl
@[simp] theorem State.setBytes_nextTeam (s : State) (a : Nat) (bs : List Byte) : (s.setBytes a bs).nextTeam = s.nextTeam := rfl
@[simp] theorem State.setBytes_groups (s : State) (a : Nat) (bs : List Byte) : (s.setBytes a bs).groups = s.groups := rfl
@[simp] theorem State.setBytes_nextCmd (s : State) (a : Nat) (bs : List Byte) : (s.setBytes a bs).nextCmd = s.nextCmd := rfl
@[simp] theorem State.setBytes_slicePtr (s : State) (a : Nat) (bs : List Byte) : (s.setBytes a bs).slicePtr = s.slicePtr := rfl
@[simp] theorem State.setBytes_mem (s : State) (a : Nat) (bs : List Byte) : (s.setBytes a bs).mem = s.mem := rfl
@[simp] theorem State.setBytes_actor (s : State) (a : Nat) (bs : List Byte) : (s.setBytes a bs).actor = s.actor := rfl
@[simp] theorem State.setBytes_free (s : State) (a : Nat) (bs : List Byte) : (s.setBytes a bs).free = s.free := rfl
@[simp] theorem State.setBytes_phys (s : State) (a : Nat) (bs : List Byte) : (s.setBytes a bs).phys = s.phys := rfl
@[simp] theorem State.setBytes_limit (s : State) (a : Nat) (bs : List Byte) : (s.setBytes a bs).limit = s.limit := rfl
@[simp] theorem State.setBytes_mid (s : State) (a : Nat) (bs : List Byte) : (s.setBytes a bs).mid = s.mid := rfl
@[simp] theorem State.setBytes_agenda (s : State) (a : Nat) (bs : List Byte) : (s.setBytes a bs).agenda = s.agenda := rfl
@[simp] theorem State.setBytes_accesses (s : State) (a : Nat) (bs : List Byte) : (s.setBytes a bs).accesses = s.accesses := rfl
@[simp] theorem State.setBytes_hit (s : State) (a : Nat) (bs : List Byte) : (s.setBytes a bs).hit = s.hit := rfl
@[simp] theorem State.setBytes_starved (s : State) (a : Nat) (bs : List Byte) : (s.setBytes a bs).starved = s.starved := rfl
@[simp] theorem State.setBytes_own (s : State) (a : Nat) (bs : List Byte) : (s.setBytes a bs).own = s.own := rfl
@[simp] theorem State.setBytes_tags (s : State) (a : Nat) (bs : List Byte) : (s.setBytes a bs).tags = s.tags := rfl
@[simp] theorem State.setBytes_paged (s : State) (a : Nat) (bs : List Byte) : (s.setBytes a bs).paged = s.paged := rfl
@[simp] theorem State.setBytes_walked (s : State) (a : Nat) (bs : List Byte) : (s.setBytes a bs).walked = s.walked := rfl

@[simp] theorem State.noteAccess_pkg (s : State) (l : Nat) (a : Word) (p n : Nat) (r w : Bool) : (s.noteAccess l a p n r w).pkg = s.pkg := rfl
@[simp] theorem State.noteAccess_parts (s : State) (l : Nat) (a : Word) (p n : Nat) (r w : Bool) : (s.noteAccess l a p n r w).parts = s.parts := rfl
@[simp] theorem State.noteAccess_clusters (s : State) (l : Nat) (a : Word) (p n : Nat) (r w : Bool) : (s.noteAccess l a p n r w).clusters = s.clusters := rfl
@[simp] theorem State.noteAccess_cores (s : State) (l : Nat) (a : Word) (p n : Nat) (r w : Bool) : (s.noteAccess l a p n r w).cores = s.cores := rfl
@[simp] theorem State.noteAccess_teams (s : State) (l : Nat) (a : Word) (p n : Nat) (r w : Bool) : (s.noteAccess l a p n r w).teams = s.teams := rfl
@[simp] theorem State.noteAccess_nextTeam (s : State) (l : Nat) (a : Word) (p n : Nat) (r w : Bool) : (s.noteAccess l a p n r w).nextTeam = s.nextTeam := rfl
@[simp] theorem State.noteAccess_groups (s : State) (l : Nat) (a : Word) (p n : Nat) (r w : Bool) : (s.noteAccess l a p n r w).groups = s.groups := rfl
@[simp] theorem State.noteAccess_nextCmd (s : State) (l : Nat) (a : Word) (p n : Nat) (r w : Bool) : (s.noteAccess l a p n r w).nextCmd = s.nextCmd := rfl
@[simp] theorem State.noteAccess_slicePtr (s : State) (l : Nat) (a : Word) (p n : Nat) (r w : Bool) : (s.noteAccess l a p n r w).slicePtr = s.slicePtr := rfl
@[simp] theorem State.noteAccess_mem (s : State) (l : Nat) (a : Word) (p n : Nat) (r w : Bool) : (s.noteAccess l a p n r w).mem = s.mem := rfl
@[simp] theorem State.noteAccess_stores (s : State) (l : Nat) (a : Word) (p n : Nat) (r w : Bool) : (s.noteAccess l a p n r w).stores = s.stores := rfl
@[simp] theorem State.noteAccess_actor (s : State) (l : Nat) (a : Word) (p n : Nat) (r w : Bool) : (s.noteAccess l a p n r w).actor = s.actor := rfl
@[simp] theorem State.noteAccess_free (s : State) (l : Nat) (a : Word) (p n : Nat) (r w : Bool) : (s.noteAccess l a p n r w).free = s.free := rfl
@[simp] theorem State.noteAccess_phys (s : State) (l : Nat) (a : Word) (p n : Nat) (r w : Bool) : (s.noteAccess l a p n r w).phys = s.phys := rfl
@[simp] theorem State.noteAccess_limit (s : State) (l : Nat) (a : Word) (p n : Nat) (r w : Bool) : (s.noteAccess l a p n r w).limit = s.limit := rfl
@[simp] theorem State.noteAccess_mid (s : State) (l : Nat) (a : Word) (p n : Nat) (r w : Bool) : (s.noteAccess l a p n r w).mid = s.mid := rfl
@[simp] theorem State.noteAccess_agenda (s : State) (l : Nat) (a : Word) (p n : Nat) (r w : Bool) : (s.noteAccess l a p n r w).agenda = s.agenda := rfl
@[simp] theorem State.noteAccess_hit (s : State) (l : Nat) (a : Word) (p n : Nat) (r w : Bool) : (s.noteAccess l a p n r w).hit = s.hit := rfl
@[simp] theorem State.noteAccess_starved (s : State) (l : Nat) (a : Word) (p n : Nat) (r w : Bool) : (s.noteAccess l a p n r w).starved = s.starved := rfl
@[simp] theorem State.noteAccess_own (s : State) (l : Nat) (a : Word) (p n : Nat) (r w : Bool) : (s.noteAccess l a p n r w).own = s.own := rfl
@[simp] theorem State.noteAccess_tags (s : State) (l : Nat) (a : Word) (p n : Nat) (r w : Bool) : (s.noteAccess l a p n r w).tags = s.tags := rfl
@[simp] theorem State.noteAccess_paged (s : State) (l : Nat) (a : Word) (p n : Nat) (r w : Bool) : (s.noteAccess l a p n r w).paged = s.paged := rfl
@[simp] theorem State.noteAccess_walked (s : State) (l : Nat) (a : Word) (p n : Nat) (r w : Bool) : (s.noteAccess l a p n r w).walked = s.walked := rfl

/-! ## Reading after an update -/

@[simp] theorem State.setG_g (s : State) (g : Group) : (s.setG g).g = g := by simp [State.setG, State.g]

@[simp] theorem State.setG_group (s : State) (g : Group) (k : Nat) :
    (s.setG g).group k = if k = s.actor then g else s.group k := by simp [State.setG, State.group]

@[simp] theorem State.setG_part (s : State) (g : Group) (k : Nat) : (s.setG g).part k = s.part k := rfl

@[simp] theorem State.setG_team (s : State) (g : Group) (k : Nat) : (s.setG g).team k = s.team k := rfl

@[simp] theorem State.setG_core (s : State) (g : Group) (k : Nat) : (s.setG g).core k = s.core k := rfl

@[simp] theorem State.setG_byteAt (s : State) (g : Group) (a : Nat) : (s.setG g).byteAt a = s.byteAt a := rfl

@[simp] theorem State.setPart_g (s : State) (k : Nat) (x : Partition) : (s.setPart k x).g = s.g := rfl

@[simp] theorem State.setPart_group (s : State) (k j : Nat) (x : Partition) : (s.setPart k x).group j = s.group j := rfl

@[simp] theorem State.setPart_part (s : State) (k j : Nat) (x : Partition) :
    (s.setPart k x).part j = if j = k then x else s.part j := by simp [State.setPart, State.part]

@[simp] theorem State.setPart_byteAt (s : State) (k a : Nat) (x : Partition) : (s.setPart k x).byteAt a = s.byteAt a := rfl

@[simp] theorem State.setTeam_g (s : State) (k : Nat) (x : Team) : (s.setTeam k x).g = s.g := rfl

@[simp] theorem State.setTeam_team (s : State) (k j : Nat) (x : Team) :
    (s.setTeam k x).team j = if j = k then x else s.team j := by simp [State.setTeam, State.team]

@[simp] theorem State.setT_g (s : State) (x : Team) : (s.setT x).g = s.g := rfl

@[simp] theorem State.setT_t (s : State) (x : Team) : (s.setT x).t = x := by simp [State.setT, State.setTeam, State.t, State.g]

@[simp] theorem State.setTeam_byteAt (s : State) (k a : Nat) (x : Team) : (s.setTeam k x).byteAt a = s.byteAt a := rfl

@[simp] theorem State.setCore_core (s : State) (k j : Nat) (x : Core) :
    (s.setCore k x).core j = if j = k then x else s.core j := by simp [State.setCore, State.core]

@[simp] theorem State.setCore_g (s : State) (k : Nat) (x : Core) : (s.setCore k x).g = s.g := rfl

@[simp] theorem State.noteAccess_byteAt (s : State) (l : Nat) (w : Word) (p n a : Nat) (r x : Bool) :
    (s.noteAccess l w p n r x).byteAt a = s.byteAt a := rfl

@[simp] theorem State.noteAccess_g (s : State) (l : Nat) (w : Word) (p n : Nat) (r x : Bool) :
    (s.noteAccess l w p n r x).g = s.g := rfl

/-- After an update of the acting group only it may differ. -/
theorem State.setG_onlyOthers (s : State) (g : Group) (k : Nat) (h : k ≠ s.actor) : (s.setG g).group k = s.group k := by
  simp [h]

/-! ## k registers, predicates and masks -/

@[simp] theorem Group.getK_zero (g : Group) : g.getK 0 = 0 := rfl

theorem Group.getK_setK (g : Group) (d r : BitVec 6) (v : Word) :
    (g.setK d v).getK r = if r = d then (if d = 0 then 0 else v) else g.getK r := by
  by_cases hd : d = 0
  · subst hd
    by_cases hr : r = 0
    · subst hr; rfl
    · rw [if_neg hr]; rfl
  · have e : g.setK d v = { g with k := SMap.set 0 g.k d.toNat v } := if_neg hd
    by_cases h0 : r = 0
    · subst h0; rw [if_neg (Ne.symm hd)]; rfl
    · have e' : ∀ h : Group, h.getK r = h.k.get 0 r.toNat := fun h => if_neg h0
      rw [e', e', e, SMap.get_set, if_neg hd]
      by_cases hr : r = d
      · rw [if_pos hr, if_pos (congrArg BitVec.toNat hr)]
      · rw [if_neg hr, if_neg fun h => hr (BitVec.eq_of_toNat_eq h)]

theorem Group.setK_fields (g : Group) (d : BitVec 6) (v : Word) : g.setK d v = { g with k := (g.setK d v).k } := by
  unfold Group.setK; split <;> rfl

theorem Group.getC_setC (g : Group) (p q : BitVec 3) (v : Bool) :
    (g.setC p v).getC q = if q = p then v else g.getC q := by
  revert p q v
  unfold Group.setC Group.getC
  generalize g.c = c
  intro p q v
  have hp := p.isLt
  have hq := q.isLt
  by_cases h : q = p
  · subst h
    cases v <;> simp [BitVec.getLsbD_and, BitVec.getLsbD_or, BitVec.getLsbD_shiftLeft] <;> omega
  · have hn : q.toNat ≠ p.toNat := fun e => h (BitVec.eq_of_toNat_eq e)
    cases v <;> simp [h, BitVec.getLsbD_and, BitVec.getLsbD_or, BitVec.getLsbD_shiftLeft] <;>
      (intros; omega)

theorem Group.setC_fields (g : Group) (p : BitVec 3) (v : Bool) : g.setC p v = { g with c := (g.setC p v).c } := rfl

theorem Group.getM_setM (g : Group) (d r : BitVec 3) (v : Word32) :
    (g.setM d v).getM r = if r = 0 then 0xFFFFFFFF else if r = d then v else g.getM r := by
  by_cases h0 : r = 0
  · subst h0; rfl
  · have e' : ∀ h : Group, h.getM r = h.m.get 0 r.toNat := fun h => if_neg h0
    rw [if_neg h0, e', e']
    by_cases hd : d = 0
    · subst hd; rw [if_neg h0]; rfl
    · have e : g.setM d v = { g with m := SMap.set 0 g.m d.toNat v } := if_neg hd
      rw [e, SMap.get_set]
      by_cases hr : r = d
      · rw [if_pos hr, if_pos (congrArg BitVec.toNat hr)]
      · rw [if_neg hr, if_neg fun h => hr (BitVec.eq_of_toNat_eq h)]

end Sys2Proof.Machine
end

