-- ==== Sys2Proof/Laws/Ops.lean ====
section
/-! SUPPORT. Sys2Proof/Laws/Ops.lean: what the shared operations of the meanings do, said once: how a control or lane word
completes, what the trace streams may touch, and a fault. -/

namespace Sys2Proof.Machine

/-! ## Completing a word -/

theorem onlyActor_setG (s : State) (g : Group) : OnlyActor s (s.setG g) :=
  ⟨rfl, fun k h => State.setG_onlyOthers s g k h, fun _ => rfl⟩

theorem became_setG (s : State) (g : Group) : Became s (s.setG g) g := ⟨onlyActor_setG s g, State.setG_g s g⟩

theorem ctlDone_became (s : State) (g : Group) : ∃ t, s.ctlDone g = .next t ∧ Became s t g.nextWord :=
  ⟨_, rfl, became_setG s _⟩

theorem ctlJump_became (s : State) (g : Group) (pc : Word) : ∃ t, s.ctlJump g pc = .next t ∧ Became s t (g.atPc pc) :=
  ⟨_, rfl, became_setG s _⟩

theorem laneDone_became (s : State) (g : Group) : ∃ t, s.laneDone g = .next t ∧ Became s t g.nextLane :=
  ⟨_, rfl, became_setG s _⟩

theorem wroteK_setG (s : State) (d : BitVec 6) (v pc : Word) :
    WroteK s (s.setG { s.g.setK d v with cpc := pc, cwait := none }) d v pc where
  toOnlyActor := onlyActor_setG s _
  value := by
    rw [State.setG_g]
    exact (Group.getK_setK s.g d d v).trans (if_pos rfl)
  kept r h := by
    rw [State.setG_g]
    exact (Group.getK_setK s.g d r v).trans (if_neg h)
  group := by
    rw [State.setG_g]
    conv => lhs; rw [Group.setK_fields]

theorem ctlSet_wrote (s : State) (d : BitVec 6) (v : Word) :
    ∃ t, s.ctlSet d v = .next t ∧ WroteK s t d v (s.g.cpc + 4) := by
  have e : (s.g.setK d v).cpc = s.g.cpc := by rw [Group.setK_fields]
  refine ⟨_, rfl, ?_⟩
  rw [e]
  exact wroteK_setG s d v _

theorem wroteC_setG (s : State) (p : BitVec 3) (v : Bool) :
    WroteC s (s.setG { s.g.setC p v with cpc := s.g.cpc + 4, cwait := none }) p v where
  toOnlyActor := onlyActor_setG s _
  value := by
    rw [State.setG_g]
    exact (Group.getC_setC s.g p p v).trans (if_pos rfl)
  kept q h := by
    rw [State.setG_g]
    exact (Group.getC_setC s.g p q v).trans (if_neg h)
  group := by rw [State.setG_g]; rfl

theorem ctlDone_setC_wrote (s : State) (p : BitVec 3) (v : Bool) :
    ∃ t, s.ctlDone (s.g.setC p v) = .next t ∧ WroteC s t p v := ⟨_, rfl, wroteC_setG s p v⟩

/-! ## Wakes (R110) -/

theorem SameButWake.refl (g : Group) : SameButWake g g := .inl rfl

theorem SameButWake.trans {g h k : Group} (x : SameButWake g h) (y : SameButWake h k) : SameButWake g k := by
  rcases x with rfl | ⟨d, a, n, w, u, s, hp, rfl⟩
  · exact y
  · rcases y with rfl | ⟨d', a', n', w', u', s', hp', rfl⟩
    · exact .inr ⟨d, a, n, w, u, s, hp, rfl⟩
    · simp only [Option.some.injEq, Park.waitm.injEq] at hp'
      obtain ⟨rfl, rfl, rfl, rfl, -, rfl⟩ := hp'
      exact .inr ⟨_, _, _, _, u, _, hp, rfl⟩

theorem Group.wakeAt_same (g : Group) (loc : Nat) : SameButWake g (g.wakeAt loc) := by
  unfold Group.wakeAt
  split
  · next d a n w x since hp =>
    split
    · exact .inr ⟨d, a, n, w, x, since, hp, rfl⟩
    · exact .inl rfl
  · exact .inl rfl

theorem State.wakeWatchers_group (s : State) (loc k : Nat) :
    (s.wakeWatchers loc).group k = s.group k ∨ (s.wakeWatchers loc).group k = (s.group k).wakeAt loc := by
  unfold State.wakeWatchers
  split
  · exact .inl rfl
  · exact .inr (SMap.get_map ({} : Group) (fun _ (g : Group) => g.wakeAt loc) s.groups k rfl :)

theorem State.wakeWatchers_same (s : State) (loc k : Nat) : SameButWake (s.group k) ((s.wakeWatchers loc).group k) := by
  rcases s.wakeWatchers_group loc k with h | h
  · exact .inl h
  · rw [h]; exact Group.wakeAt_same _ _

/-! ## The trace streams touch memory, wake flags, the host agent's lines and the debug page only -/

/-- What writing a trace stream leaves alone. -/
structure TraceOnly (s t : State) : Prop where
  /-- The groups, but for their wake flags. -/
  groups : ∀ k, SameButWake (s.group k) (t.group k)
  /-- The teams. -/
  teams : t.teams = s.teams
  /-- The acting group. -/
  actor : t.actor = s.actor
  /-- The halt lines. -/
  halt : ∀ k, (t.part k).halt = (s.part k).halt
  /-- DBG_CTL. -/
  ctl : ∀ k, (t.part k).dbg.ctl = (s.part k).dbg.ctl

theorem TraceOnly.refl (s : State) : TraceOnly s s := ⟨fun _ => .refl _, rfl, rfl, fun _ => rfl, fun _ => rfl⟩

theorem TraceOnly.trans {s t u : State} (h : TraceOnly s t) (h' : TraceOnly t u) : TraceOnly s u :=
  ⟨fun k => (h.groups k).trans (h'.groups k), h'.teams.trans h.teams, h'.actor.trans h.actor,
    fun k => (h'.halt k).trans (h.halt k), fun k => (h'.ctl k).trans (h.ctl k)⟩

theorem traceOnly_pkg (s : State) (p : Package) : TraceOnly s { s with pkg := p } :=
  ⟨fun _ => .refl _, rfl, rfl, fun _ => rfl, fun _ => rfl⟩

theorem commitBytes_only (s : State) (loc : Nat) (bs : List Byte) : TraceOnly s (s.commitBytes loc bs) := by
  unfold State.commitBytes
  refine ⟨fun k => State.wakeWatchers_same (s.setBytes loc bs) loc k, ?_, ?_, ?_, ?_⟩ <;>
    (unfold State.wakeWatchers; split <;> first | rfl | exact fun _ => rfl)

theorem applyMark_only (s : State) (m : Nat × Word) : TraceOnly s (s.applyMark m) :=
  (commitBytes_only s _ _).trans ⟨fun _ => .refl _, rfl, rfl, fun _ => rfl, fun _ => rfl⟩

theorem applyMarks_only (s : State) (marks : List (Nat × Word)) (a b : Nat) : TraceOnly s (s.applyMarks marks a b) := by
  have h : ∀ (marks : List (Nat × Word)) (s : State), TraceOnly s (marks.foldl State.applyMark s) := by
    intro marks
    induction marks with
    | nil => exact TraceOnly.refl
    | cons m ms ih => exact fun s => (applyMark_only s m).trans (ih _)
  unfold State.applyMarks
  simp only []
  split
  · exact h marks s
  · exact (h marks s).trans ⟨fun _ => .refl _, rfl, rfl, fun _ => rfl, fun _ => rfl⟩

theorem holdLine_only (s : State) (part : Nat) (x : Target) (w : Bool) : TraceOnly s (s.holdLine part x w) := by
  unfold State.holdLine
  split
  · exact traceOnly_pkg _ _
  · exact TraceOnly.refl s

theorem agentAccess_only {s t : State} {p va n loc : Nat} {need : Need} {x : Target}
    (h : s.agentAccess p va n need = .ok (loc, x, t)) : TraceOnly s t := by
  unfold State.agentAccess at h
  split at h
  · cases h
  · split at h
    · cases h
    · split at h
      · cases h
      · cases h
      · injection h with h
        injection h with _ h
        injection h with _ h
        subst h
        exact applyMarks_only ..

theorem traceOnly_setPart (s : State) (k : Nat) (x : Partition) (hh : x.halt = (s.part k).halt)
    (hc : x.dbg.ctl = (s.part k).dbg.ctl) : TraceOnly s (s.setPart k x) where
  groups _ := .refl _
  teams := rfl
  actor := rfl
  halt j := by
    rw [State.setPart_part]
    by_cases h : j = k
    · subst h; rw [if_pos rfl, hh]
    · rw [if_neg h]
  ctl j := by
    rw [State.setPart_part]
    by_cases h : j = k
    · subst h; rw [if_pos rfl, hc]
    · rw [if_neg h]

/-- R62: touching a poisoned line changes the host agent's marks only. -/
theorem touchFail_pkg (s : State) (p : Nat) (c : BitVec 8) (va : Nat) : ∃ x, s.touchFail p c va = { s with pkg := x } := by
  unfold State.touchFail State.touchPoison
  repeat' split
  all_goals exact ⟨_, rfl⟩

theorem touchFail_only (s : State) (p : Nat) (c : BitVec 8) (va : Nat) : TraceOnly s (s.touchFail p c va) := by
  obtain ⟨x, h⟩ := touchFail_pkg s p c va
  rw [h]
  exact traceOnly_pkg s x

theorem by_only (s t u : State) (r : Nat) (h : TraceOnly s u) : TraceOnly s (t.by r u) :=
  h.trans ⟨fun _ => .refl _, rfl, rfl, fun _ => rfl, fun _ => rfl⟩

theorem traceStore_only {s t : State} {p d : Nat} {w : Word} (h : s.traceStore p d w = some t) : TraceOnly s t := by
  unfold State.traceStore State.setTracePtr at h
  simp only [] at h
  split at h
  · cases h; exact traceOnly_setPart _ _ _ rfl rfl
  · split at h
    · cases h
    · cases h; exact touchFail_only ..
    · next loc x u e =>
      cases h
      exact (by_only _ _ _ _ ((agentAccess_only e).trans <| (holdLine_only ..).trans <| commitBytes_only ..)).trans
        (traceOnly_setPart _ _ _ rfl rfl)

theorem traceStores_only (p d : Nat) (ws : List Word) (s : State) : TraceOnly s (State.traceStores p d s ws).1 := by
  induction ws generalizing s with
  | nil => exact TraceOnly.refl s
  | cons w ws ih =>
    unfold State.traceStores
    split
    · exact TraceOnly.refl s
    · next t e => exact (traceStore_only e).trans (ih t)

theorem traceWord_only (s : State) (p d : Nat) (w : Word) : TraceOnly s (s.traceWord p d w) :=
  (traceStores_only p d _ s).trans (traceOnly_setPart _ _ _ rfl rfl)

theorem traceFrame_only (s : State) (p d : Nat) (f : Bool) : TraceOnly s (s.traceFrame p d f) := by
  unfold State.traceFrame
  split
  · exact TraceOnly.refl s
  · exact (traceWord_only ..).trans (traceWord_only ..)

theorem traceLong_only (s : State) (p d : Nat) (w : Option Word) : TraceOnly s (s.traceLong p d w) := by
  unfold State.traceLong
  split
  · exact traceWord_only ..
  · exact TraceOnly.refl s

theorem traceStamp_only (s : State) (p d now : Nat) : TraceOnly s (s.traceStamp p d now) :=
  traceOnly_setPart _ _ _ rfl rfl

theorem traceEvent_only (s : State) (p d ty payload : Nat) (long : Option Word) :
    TraceOnly s (s.traceEvent p d ty payload long) := by
  unfold State.traceEvent
  split
  · exact TraceOnly.refl s
  · exact (traceFrame_only ..).trans ((traceStamp_only ..).trans ((traceWord_only ..).trans (traceLong_only ..)))

theorem traceEvent_off (s : State) (p d ty payload : Nat) (long : Option Word)
    (h : bit (s.part p).dbg.ctl 1 = false) : s.traceEvent p d ty payload long = s := by
  unfold State.traceEvent
  simp [h]

/-! ## Faults -/

/-- Nothing but partitions' bookkeeping and the gates of ports differs: the halt lines, the groups and memory are as
before. -/
structure Quiet (s t : State) : Prop extends TraceOnly s t where
  /-- The groups. -/
  same : t.groups = s.groups
  /-- Memory. -/
  bytes : SameBytes s t

theorem Quiet.refl (s : State) : Quiet s s := ⟨.refl s, rfl, fun _ => rfl⟩

theorem Quiet.trans {s t u : State} (h : Quiet s t) (h' : Quiet t u) : Quiet s u :=
  ⟨h.toTraceOnly.trans h'.toTraceOnly, h'.same.trans h.same, fun a => (h'.bytes a).trans (h.bytes a)⟩

theorem quiet_setPart (s : State) (k : Nat) (x : Partition) (hh : x.halt = (s.part k).halt)
    (hc : x.dbg.ctl = (s.part k).dbg.ctl) : Quiet s (s.setPart k x) := ⟨traceOnly_setPart s k x hh hc, rfl, fun _ => rfl⟩

theorem quiet_foldState {α : Type} (f : α → State → State) (h : ∀ x s, Quiet s (f x s)) (l : List α) :
    ∀ s, Quiet s (foldState l s f) := by
  induction l with
  | nil => exact Quiet.refl
  | cons x xs ih => exact fun s => (h x s).trans (ih _)

theorem wakePort_quiet (s : State) (c p : Nat) : Quiet s (s.wakePort c p) :=
  ⟨⟨fun _ => .refl _, rfl, rfl, fun _ => rfl, fun _ => rfl⟩, rfl, fun _ => rfl⟩

theorem wakeCores_quiet (s : State) (k : Nat) : Quiet s (s.wakeCores k) :=
  quiet_foldState _ (fun c s => quiet_foldState _ (fun p s => wakePort_quiet s c p) _ s) _ s

theorem withdrawToken_quiet (s : State) (p k : Nat) : Quiet s (s.withdrawToken p k) := by
  unfold State.withdrawToken
  simp only []
  split
  · exact quiet_setPart _ _ _ rfl rfl
  · exact .refl s

theorem releaseToken_quiet (s : State) (p k : Nat) : Quiet s (s.releaseToken p k) := by
  unfold State.releaseToken
  simp only []
  split
  · exact quiet_setPart _ _ _ rfl rfl
  · exact .refl s

theorem dumpStep_quiet (s : State) (g : Group) : Quiet s (s.dumpStep g) := quiet_setPart _ _ _ rfl rfl

/-- What raising the halt line of partition `k` does: the record joins it, its first cause stays, and but for what a trace
stream writes groups and memory are as before. -/
structure Raised (s t : State) (k : Nat) (c : BitVec 8) (r : StopRecord) : Prop where
  /-- The groups, but for their wake flags. -/
  groups : ∀ j, SameButWake (s.group j) (t.group j)
  /-- The teams. -/
  teams : t.teams = s.teams
  /-- The acting group. -/
  actor : t.actor = s.actor
  /-- The halt line. -/
  line : ∃ h, (t.part k).halt = some h ∧ r ∈ h.records ∧ h.cause = (match (s.part k).halt with
    | some h' => h'.cause
    | none => c)
  /-- Where no trace stream runs. -/
  quiet : bit (s.part k).dbg.ctl 1 = false → SameBytes s t ∧ t.groups = s.groups

theorem raised_of (s u : State) (k ty : Nat) (c : BitVec 8) (r : StopRecord) (x : Partition) (h : Halt) (d p : Nat)
    (hu : Quiet (s.setPart k x) u) (hh : x.halt = some h) (hc : x.dbg.ctl = (s.part k).dbg.ctl) (hr : r ∈ h.records)
    (hcause : h.cause = match (s.part k).halt with
      | some h' => h'.cause
      | none => c) :
    Raised s (u.traceEvent k d ty p none) k c r := by
  have ht : TraceOnly u (u.traceEvent k d ty p none) := traceEvent_only ..
  refine ⟨fun j => ?_, ht.teams.trans hu.teams, ht.actor.trans hu.actor, ⟨h, ?_, hr, hcause⟩, fun hb => ?_⟩
  · exact (hu.groups j).trans (ht.groups j)
  · rw [ht.halt, hu.halt, State.setPart_part, if_pos rfl, hh]
  · rw [traceEvent_off _ _ _ _ _ _ (by rw [hu.ctl, State.setPart_part, if_pos rfl, hc]; exact hb)]
    exact ⟨hu.bytes, hu.same⟩

theorem touchFail_quiet (s : State) (p : Nat) (c : BitVec 8) (va : Nat) : Quiet s (s.touchFail p c va) := by
  obtain ⟨x, h⟩ := touchFail_pkg s p c va
  rw [h]
  exact ⟨traceOnly_pkg s x, rfl, fun _ => rfl⟩

theorem Raised.after {s u t : State} {k : Nat} {c : BitVec 8} {r : StopRecord} (q : Quiet s u) (h : Raised u t k c r) :
    Raised s t k c r where
  groups j := (q.groups j).trans (h.groups j)
  teams := h.teams.trans q.teams
  actor := h.actor.trans q.actor
  line := by rw [← q.halt k]; exact h.line
  quiet hb := by
    have x := h.quiet (by rw [q.ctl]; exact hb)
    exact ⟨fun a => (x.1 a).trans (q.bytes a), x.2.trans q.same⟩

theorem raiseHalt_spec (s : State) (k : Nat) (c : BitVec 8) (r : StopRecord) : Raised s (s.raiseHalt k c r) k c r := by
  refine Raised.after (touchFail_quiet s k c (r.words.getD 4 0).toNat) ?_
  unfold State.raiseHalt
  generalize s.touchFail k c (r.words.getD 4 0).toNat = s
  cases e : (s.part k).halt with
  | some h =>
    simp only [e]
    exact raised_of s _ k _ c r { s.part k with halt := some { h with records := h.records ++ [r] } }
      { h with records := h.records ++ [r] } _ _ (.refl _) rfl rfl
      (List.mem_append.mpr (.inr (List.mem_singleton.mpr rfl))) (by rw [e])
  | none =>
    simp only [e]
    exact raised_of s _ k _ c r _ { cause := c, ns := s.nsNow.toNat, records := [r] } _ _ (wakeCores_quiet _ _) rfl rfl
      (List.mem_singleton.mpr rfl) (by rw [e])

theorem raiseFault_faulted (s : State) (c : BitVec 8) (fl : Word32) (addr info : Word) :
    Faulted s (s.raiseFault c fl addr info) c fl addr info := by
  let r := s.groupRecord s.g 0 c fl addr info
  let u := ((s.raiseHalt s.g.part c r).withdrawToken s.g.part s.actor).releaseToken s.g.part s.actor
  let v := if s.g.stepping.isSome then u.dumpStep s.g else u
  let g : Group := { s.g with stop := .halt, asked := false, stepping := none, stepOver := false }
  have e : s.raiseFault c fl addr info = v.setG g := rfl
  have hr : Raised s (s.raiseHalt s.g.part c r) s.g.part c r := raiseHalt_spec ..
  have hv : Quiet (s.raiseHalt s.g.part c r) v := by
    refine Quiet.trans (t := u) ((withdrawToken_quiet ..).trans (releaseToken_quiet ..)) ?_
    simp only [v]
    split
    · exact dumpStep_quiet ..
    · exact .refl _
  have ha : v.actor = s.actor := hv.actor.trans hr.actor
  rw [e]
  obtain ⟨h, h1, h2, h3⟩ := hr.line
  refine ⟨State.setG_g v g, fun k hne => ?_, ⟨h, ?_, h2, h3⟩, fun hc => ⟨fun a => ?_, fun k hne => ?_⟩⟩
  · rw [State.setG_group, ha, if_neg hne]
    exact (hr.groups k).trans (hv.groups k)
  · unfold State.p
    rw [State.setG_g, State.setG_part, hv.halt]
    exact h1
  · rw [State.setG_byteAt, hv.bytes, (hr.quiet hc).1]
  · rw [State.setG_group, ha, if_neg hne]
    unfold State.group
    rw [hv.same, (hr.quiet hc).2]

theorem fault_faulted (s : State) (c : BitVec 8) (addr info : Word) :
    ∃ t, s.fault c addr info = .next t ∧ Faulted s t c 0 addr info := ⟨_, rfl, raiseFault_faulted ..⟩

/-- R314: a control word that the decoder refuses raises ILLEGAL_OP. -/
theorem illegalControl_of_error {w : Word32} {e : DecodeError} (h : decodeControl w = .error e) : IllegalControl w := by
  intro s s' hmid hm he hp hw hf
  refine ⟨_, ?_, raiseFault_faulted s' causeIllegalOp 0 0 0⟩
  unfold State.issueControl
  simp [State.controlDue, State.midWord, State.runControl, hmid, hm, he, hp, hw, hf, h, State.illegal, State.fault]

/-- R314: a lane word that the decoder refuses raises ILLEGAL_OP. -/
theorem illegalLane_of_error {w : LaneWord} {e : DecodeError} (h : decodeLane w = .error e) : IllegalLane w := by
  intro s paired
  refine ⟨_, ?_, raiseFault_faulted s causeIllegalOp 0 0 0⟩
  unfold State.runLane
  simp [h, State.illegal, State.fault]

end Sys2Proof.Machine
end

