-- ==== Sys2Proof/Laws/Lanes.lean ====
section
/-! SUPPORT. Sys2Proof/Laws/Lanes.lean: what a lane word does to the registers (R119, R128, R130, R370), said once for the
operation that all of them share. -/

namespace Sys2Proof.Machine

theorem mem_lanesOf (m : Word32) (i : Nat) : i ∈ lanesOf m ↔ i < 32 ∧ lane m i = true := by
  simp [lanesOf, lanes, List.mem_filter]

/-! ## Writing a run of registers in one lane -/

theorem writeRegs_fields (g : Group) (x : Operand) (i b : Nat) (t : Tag) (n : Nat) :
    ∃ v o, g.writeRegs x i b t n = { g with v, o } := by
  induction n with
  | zero => exact ⟨g.v, g.o, rfl⟩
  | succ n ih =>
    obtain ⟨v, o, h⟩ := ih
    unfold Group.writeRegs
    rw [h]
    cases x <;> exact ⟨_, _, rfl⟩

/-- The value of register `r` of a run that starts at `m`. -/
def runVal (m r b : Nat) (t : Tag) : LaneVal := ⟨BitVec.ofNat 32 (b / 2 ^ (32 * (r - m))), if r = m then t else 0⟩

theorem writeRegs_v (g : Group) (m : BitVec 8) (i j r b : Nat) (t : Tag) (n : Nat) (hi : i < 32) (hj : j < 32) :
    (g.writeRegs (.v m) i b t n).v.get {} (r * 32 + j) =
      if j = i ∧ m.toNat ≤ r ∧ r < m.toNat + n then runVal m.toNat r b t else g.v.get {} (r * 32 + j) := by
  induction n with
  | zero => rw [if_neg (by omega)]; rfl
  | succ n ih =>
    simp only [Group.writeRegs, Group.setReg, SMap.get_set]
    by_cases h : r * 32 + j = (m.toNat + n) * 32 + i
    · have h1 : r = m.toNat + n := by omega
      have h2 : j = i := by omega
      rw [if_pos h, if_pos (⟨h2, by omega, by omega⟩ : j = i ∧ m.toNat ≤ r ∧ r < m.toNat + (n + 1)), runVal, h1,
        Nat.add_sub_cancel_left]
      by_cases hn : n = 0
      · subst hn; simp
      · rw [if_neg hn, if_neg (by omega)]
    · rw [if_neg h, ih]
      by_cases h2 : j = i ∧ m.toNat ≤ r ∧ r < m.toNat + n
      · rw [if_pos h2, if_pos (by omega)]
      · rw [if_neg h2, if_neg (by omega)]

theorem writeRegs_o (g : Group) (m : BitVec 4) (i j r b : Nat) (t : Tag) (n : Nat) (hi : i < 32) (hj : j < 32) :
    (g.writeRegs (.o m) i b t n).o.get {} (r * 32 + j) =
      if j = i ∧ m.toNat ≤ r ∧ r < m.toNat + n then runVal m.toNat r b t else g.o.get {} (r * 32 + j) := by
  induction n with
  | zero => rw [if_neg (by omega)]; rfl
  | succ n ih =>
    simp only [Group.writeRegs, Group.setReg, SMap.get_set]
    by_cases h : r * 32 + j = (m.toNat + n) * 32 + i
    · have h1 : r = m.toNat + n := by omega
      have h2 : j = i := by omega
      rw [if_pos h, if_pos (⟨h2, by omega, by omega⟩ : j = i ∧ m.toNat ≤ r ∧ r < m.toNat + (n + 1)), runVal, h1,
        Nat.add_sub_cancel_left]
      by_cases hn : n = 0
      · subst hn; simp
      · rw [if_neg hn, if_neg (by omega)]
    · rw [if_neg h, ih]
      by_cases h2 : j = i ∧ m.toNat ≤ r ∧ r < m.toNat + n
      · rw [if_pos h2, if_pos (by omega)]
      · rw [if_neg h2, if_neg (by omega)]

/-- A write to one file leaves the other alone. -/
theorem writeRegs_v_o (g : Group) (m : BitVec 8) (i b : Nat) (t : Tag) (n : Nat) :
    (g.writeRegs (.v m) i b t n).o = g.o := by
  induction n with
  | zero => rfl
  | succ n ih => simpa only [Group.writeRegs, Group.setReg] using ih

theorem writeRegs_o_v (g : Group) (m : BitVec 4) (i b : Nat) (t : Tag) (n : Nat) :
    (g.writeRegs (.o m) i b t n).v = g.v := by
  induction n with
  | zero => rfl
  | succ n ih => simpa only [Group.writeRegs, Group.setReg] using ih

/-! ## All lanes of a mask -/

/-- The registers after the writes of some lanes. -/
def Group.writeLanes (g : Group) (x : Operand) (n : Nat) (out : Nat → LaneOut) (is : List Nat) : Group :=
  foldState is g fun i h => h.writeRegs x i (out i).bits (BitVec.ofNat 6 (out i).tag) n

theorem writeLanes_cons (g : Group) (x : Operand) (n : Nat) (out : Nat → LaneOut) (i : Nat) (is : List Nat) :
    g.writeLanes x n out (i :: is) =
      (g.writeRegs x i (out i).bits (BitVec.ofNat 6 (out i).tag) n).writeLanes x n out is := rfl

theorem writeLanes_fields (g : Group) (x : Operand) (n : Nat) (out : Nat → LaneOut) (is : List Nat) :
    ∃ v o, g.writeLanes x n out is = { g with v, o } := by
  induction is generalizing g with
  | nil => exact ⟨g.v, g.o, rfl⟩
  | cons i is ih =>
    rw [writeLanes_cons]
    obtain ⟨v, o, h⟩ := writeRegs_fields g x i (out i).bits (BitVec.ofNat 6 (out i).tag) n
    rw [h]
    obtain ⟨v', o', h'⟩ := ih { g with v, o }
    exact ⟨v', o', h'⟩

theorem writeLanes_v (g : Group) (m : BitVec 8) (n : Nat) (out : Nat → LaneOut) (is : List Nat) (j r : Nat)
    (his : ∀ i ∈ is, i < 32) (hj : j < 32) :
    (g.writeLanes (.v m) n out is).v.get {} (r * 32 + j) =
      if j ∈ is ∧ m.toNat ≤ r ∧ r < m.toNat + n then runVal m.toNat r (out j).bits (BitVec.ofNat 6 (out j).tag)
      else g.v.get {} (r * 32 + j) := by
  induction is generalizing g with
  | nil => simp [Group.writeLanes, foldState]
  | cons i is ih =>
    rw [writeLanes_cons, ih _ fun x hx => his x (List.mem_cons_of_mem _ hx), writeRegs_v _ _ _ _ _ _ _ _ (his i (by simp)) hj]
    by_cases h1 : j ∈ is ∧ m.toNat ≤ r ∧ r < m.toNat + n
    · rw [if_pos h1, if_pos ⟨List.mem_cons_of_mem _ h1.1, h1.2⟩]
    · rw [if_neg h1]
      by_cases h2 : j = i ∧ m.toNat ≤ r ∧ r < m.toNat + n
      · rw [if_pos h2, if_pos ⟨by simp [h2.1], h2.2⟩, h2.1]
      · rw [if_neg h2, if_neg]
        rintro ⟨hm, hr⟩
        rcases List.mem_cons.mp hm with h | h
        · exact h2 ⟨h, hr⟩
        · exact h1 ⟨h, hr⟩

theorem writeLanes_o (g : Group) (m : BitVec 4) (n : Nat) (out : Nat → LaneOut) (is : List Nat) (j r : Nat)
    (his : ∀ i ∈ is, i < 32) (hj : j < 32) :
    (g.writeLanes (.o m) n out is).o.get {} (r * 32 + j) =
      if j ∈ is ∧ m.toNat ≤ r ∧ r < m.toNat + n then runVal m.toNat r (out j).bits (BitVec.ofNat 6 (out j).tag)
      else g.o.get {} (r * 32 + j) := by
  induction is generalizing g with
  | nil => simp [Group.writeLanes, foldState]
  | cons i is ih =>
    rw [writeLanes_cons, ih _ fun x hx => his x (List.mem_cons_of_mem _ hx), writeRegs_o _ _ _ _ _ _ _ _ (his i (by simp)) hj]
    by_cases h1 : j ∈ is ∧ m.toNat ≤ r ∧ r < m.toNat + n
    · rw [if_pos h1, if_pos ⟨List.mem_cons_of_mem _ h1.1, h1.2⟩]
    · rw [if_neg h1]
      by_cases h2 : j = i ∧ m.toNat ≤ r ∧ r < m.toNat + n
      · rw [if_pos h2, if_pos ⟨by simp [h2.1], h2.2⟩, h2.1]
      · rw [if_neg h2, if_neg]
        rintro ⟨hm, hr⟩
        rcases List.mem_cons.mp hm with h | h
        · exact h2 ⟨h, hr⟩
        · exact h1 ⟨h, hr⟩

theorem writeLanes_v_o (g : Group) (m : BitVec 8) (n : Nat) (out : Nat → LaneOut) (is : List Nat) :
    (g.writeLanes (.v m) n out is).o = g.o := by
  induction is generalizing g with
  | nil => rfl
  | cons i is ih => rw [writeLanes_cons, ih, writeRegs_v_o]

theorem writeLanes_o_v (g : Group) (m : BitVec 4) (n : Nat) (out : Nat → LaneOut) (is : List Nat) :
    (g.writeLanes (.o m) n out is).v = g.v := by
  induction is generalizing g with
  | nil => rfl
  | cons i is ih => rw [writeLanes_cons, ih, writeRegs_o_v]

/-! ## The last-result file -/

theorem shiftLast_old (l : SMap LaneVal64) (k : Nat) (hk : k < 96) :
    SMap.get {} ((l.filter fun e => decide (e.1 < 96)).map fun e => (e.1 + 32, e.2)) (k + 32) = SMap.get {} l k := by
  induction l with
  | nil => rfl
  | cons e l ih =>
    obtain ⟨a, x⟩ := e
    by_cases ha : a < 96
    · simp only [List.filter_cons, ha, decide_true, if_true, List.map_cons, SMap.get, beq_iff_eq]
      by_cases h : a = k
      · rw [if_pos (by omega), if_pos h]
      · rw [if_neg (by omega), if_neg h]; exact ih
    · have hak : a ≠ k := by omega
      simp only [List.filter_cons, ha, decide_false, SMap.get, beq_iff_eq, if_neg hak]
      exact ih

theorem get_foldl_set {α : Type} [DecidableEq α] (d : α) (f : Nat → α) (is : List Nat) (m : SMap α) (k : Nat) :
    SMap.get d (is.foldl (fun m i => SMap.set d m i (f i)) m) k = if k ∈ is then f k else SMap.get d m k := by
  induction is generalizing m with
  | nil => simp
  | cons i is ih =>
    rw [List.foldl_cons, ih, SMap.get_set]
    by_cases h : k ∈ is
    · rw [if_pos h, if_pos (List.mem_cons_of_mem _ h)]
    · rw [if_neg h]
      by_cases h2 : k = i
      · rw [if_pos h2, if_pos (by simp [h2]), h2]
      · rw [if_neg h2, if_neg (by simp [h, h2])]

theorem shiftLast_get (g : Group) (x : Operand) (n i : Nat) (hi : i < 32) :
    (g.shiftLast x n).l.get {} i = ⟨BitVec.ofNat 64 (g.regBits x i (min n 2)), (g.reg x 0 i).tag⟩ := by
  unfold Group.shiftLast
  simp only []
  rw [get_foldl_set ({} : LaneVal64) (fun i => ⟨BitVec.ofNat 64 (g.regBits x i (min n 2)), (g.reg x 0 i).tag⟩)]
  rw [if_pos (by simp [lanes, hi])]

theorem shiftLast_shift (g : Group) (x : Operand) (n j i : Nat) (hj : j < 3) (hi : i < 32) :
    (g.shiftLast x n).l.get {} ((j + 1) * 32 + i) = g.l.get {} (j * 32 + i) := by
  unfold Group.shiftLast
  simp only []
  rw [get_foldl_set ({} : LaneVal64) (fun i => ⟨BitVec.ofNat 64 (g.regBits x i (min n 2)), (g.reg x 0 i).tag⟩)]
  rw [if_neg (by simp [lanes]; omega)]
  have e : (j + 1) * 32 + i = j * 32 + i + 32 := by omega
  rw [e]
  exact shiftLast_old _ _ (by omega)

theorem shiftLast_fields (g : Group) (x : Operand) (n : Nat) :
    g.shiftLast x n = { g with l := (g.shiftLast x n).l } := rfl

/-! ## The whole word -/

theorem regBits_of (g : Group) (x : Operand) (i b n : Nat)
    (h : ∀ k, k < n → (g.reg x k i).bits = BitVec.ofNat 32 (b / 2 ^ (32 * k))) :
    g.regBits x i n = b % 2 ^ (32 * n) := by
  induction n with
  | zero => simp [Group.regBits, Nat.mod_one]
  | succ n ih =>
    rw [Group.regBits, ih fun k hk => h k (by omega), h n (by omega)]
    have e : 2 ^ (32 * (n + 1)) = 2 ^ (32 * n) * 2 ^ 32 := by rw [← Nat.pow_add]; congr 1
    rw [e, Nat.mod_mul, BitVec.toNat_ofNat, Nat.mul_comm (2 ^ (32 * n))]

theorem applyLanes_eq (g : Group) (f : LaneFields) (n : Nat) (out : Nat → LaneOut) :
    g.applyLanes f n out = (g.writeLanes f.dst n out (lanesOf (g.active f.guard))).shiftLast f.dst n := rfl

theorem reg_shiftLast (g : Group) (x y : Operand) (n k i : Nat) : (g.shiftLast x n).reg y k i = g.reg y k i := by
  cases y <;> rfl

theorem regBits_shiftLast (g : Group) (x y : Operand) (n i k : Nat) :
    (g.shiftLast x n).regBits y i k = g.regBits y i k := by
  induction k with
  | zero => rfl
  | succ k ih => rw [Group.regBits, Group.regBits, ih, reg_shiftLast]

theorem isBase_cases {n : Nat} {x : Operand} (h : x.isBase n = true) : (∃ m, x = .v m) ∨ ∃ m, x = .o m := by
  cases x <;> simp_all [Operand.isBase]

/-- What a lane word with a destination of `n` registers leaves in the registers. -/
theorem applyLanes_regs (g : Group) (f : LaneFields) (n : Nat) (out : Nat → LaneOut) (hd : f.dst.isBase n = true) :
    LaneRegs g (g.applyLanes f n out) f n out := by
  have hl : ∀ i ∈ lanesOf (g.active f.guard), i < 32 := fun i h => ((mem_lanesOf _ i).mp h).1
  have hreg : ∀ i, i < 32 → lane (g.active f.guard) i = true → ∀ k, k < n →
      (g.applyLanes f n out).reg f.dst k i =
        ⟨BitVec.ofNat 32 ((out i).bits / 2 ^ (32 * k)), if k = 0 then BitVec.ofNat 6 (out i).tag else 0⟩ := by
    intro i hi ha k hk
    have hm := (mem_lanesOf (g.active f.guard) i).mpr ⟨hi, ha⟩
    rw [applyLanes_eq, reg_shiftLast]
    obtain ⟨m, e⟩ | ⟨m, e⟩ := isBase_cases hd
    · rw [e]
      refine (writeLanes_v g m n out _ i (m.toNat + k) hl hi).trans ?_
      rw [if_pos ⟨hm, by omega, by omega⟩, runVal]
      simp
    · rw [e]
      refine (writeLanes_o g m n out _ i (m.toNat + k) hl hi).trans ?_
      rw [if_pos ⟨hm, by omega, by omega⟩, runVal]
      simp
  refine ⟨fun i hi ha => regBits_of _ _ _ _ _ fun k hk => by rw [hreg i hi ha k hk],
    fun i hi ha k hk => by rw [hreg i hi ha k hk], fun r i hi h => ?_, fun r i hi h => ?_, fun i hi => ?_,
    fun j i hj hi => ?_⟩
  · rw [applyLanes_eq]
    obtain ⟨m, e⟩ | ⟨m, e⟩ := isBase_cases hd
    · rw [e] at h ⊢
      refine (writeLanes_v g m n out _ i r hl hi).trans (if_neg ?_)
      rintro ⟨h1, h2⟩
      rcases h with h | h
      · rw [((mem_lanesOf _ i).mp h1).2] at h; cases h
      · simp [inRun, h2] at h
    · rw [e]
      show SMap.get {} (g.writeLanes (.o m) n out _).v _ = _
      rw [writeLanes_o_v]
  · rw [applyLanes_eq]
    obtain ⟨m, e⟩ | ⟨m, e⟩ := isBase_cases hd
    · rw [e]
      show SMap.get {} (g.writeLanes (.v m) n out _).o _ = _
      rw [writeLanes_v_o]
    · rw [e] at h ⊢
      refine (writeLanes_o g m n out _ i r hl hi).trans (if_neg ?_)
      rintro ⟨h1, h2⟩
      rcases h with h | h
      · rw [((mem_lanesOf _ i).mp h1).2] at h; cases h
      · simp [inRun, h2] at h
  · rw [applyLanes_eq, shiftLast_get _ _ _ _ hi, regBits_shiftLast, reg_shiftLast]
  · rw [applyLanes_eq, shiftLast_shift _ _ _ _ _ hj hi]
    obtain ⟨v, o, e⟩ := writeLanes_fields g f.dst n out (lanesOf (g.active f.guard))
    rw [e]

theorem regBits_congr {g h : Group} (hv : h.v = g.v) (ho : h.o = g.o) (x : Operand) (i n : Nat) :
    h.regBits x i n = g.regBits x i n ∧ ∀ k, h.reg x k i = g.reg x k i := by
  have hr : ∀ k, h.reg x k i = g.reg x k i := fun k => by cases x <;> simp only [Group.reg, hv, ho]
  refine ⟨?_, hr⟩
  induction n with
  | zero => rfl
  | succ n ih => rw [Group.regBits, Group.regBits, ih, hr]

/-- The lane registers are the files v, o and l alone. -/
theorem LaneRegs.congr {g h h' : Group} {f : LaneFields} {n : Nat} {out : Nat → LaneOut} (r : LaneRegs g h f n out)
    (hv : h'.v = h.v) (ho : h'.o = h.o) (hl : h'.l = h.l) : LaneRegs g h' f n out where
  bits i hi ha := by rw [(regBits_congr hv ho f.dst i n).1]; exact r.bits i hi ha
  tag i hi ha k hk := by rw [(regBits_congr hv ho f.dst i n).2]; exact r.tag i hi ha k hk
  keptV a i hi h := by rw [hv]; exact r.keptV a i hi h
  keptO a i hi h := by rw [ho]; exact r.keptO a i hi h
  last i hi := by
    rw [hl, (regBits_congr hv ho f.dst i _).1, (regBits_congr hv ho f.dst i n).2]
    exact r.last i hi
  shift j i hj hi := by rw [hl]; exact r.shift j i hj hi

theorem applyLanes_fields (g : Group) (f : LaneFields) (n : Nat) (out : Nat → LaneOut) :
    ∃ v o l, g.applyLanes f n out = { g with v, o, l } := by
  obtain ⟨v, o, e⟩ := writeLanes_fields g f.dst n out (lanesOf (g.active f.guard))
  refine ⟨v, o, (g.applyLanes f n out).l, ?_⟩
  rw [applyLanes_eq, e]
  rfl

theorem wroteLanes_done (s : State) (f : LaneFields) (n : Nat) (out : Nat → LaneOut) (hd : f.dst.isBase n = true) :
    ∃ t, s.laneDone (s.g.applyLanes f n out) = .next t ∧ WroteLanes s t f n out := by
  obtain ⟨v, o, l, e⟩ := applyLanes_fields s.g f n out
  have hr := applyLanes_regs s.g f n out hd
  rw [e] at hr ⊢
  refine ⟨_, rfl, onlyActor_setG s _, ?_, ?_⟩
  · rw [State.setG_g]
    exact hr.congr rfl rfl rfl
  · rw [State.setG_g]

/-- A word that no significance trap checks. -/
theorem laneOp_wrote (s : State) (f : LaneFields) (n : Nat) (out : Nat → LaneOut) (hf : s.fileOk f = true)
    (hd : f.dst.isBase n = true) : ∃ t, s.laneOp f n false out = .next t ∧ WroteLanes s t f n out := by
  unfold State.laneOp
  simp only [hf, Bool.not_true, Bool.false_eq_true, if_false, if_true]
  exact wroteLanes_done s f n out hd

/-- A checked word whose results all reach the threshold (R265). -/
theorem laneOp_checked_wrote (s : State) (f : LaneFields) (n : Nat) (out : Nat → LaneOut) (hf : s.fileOk f = true)
    (hd : f.dst.isBase n = true) (hs : s.g.sigLanes f out = 0) :
    ∃ t, s.laneOp f n true out = .next t ∧ WroteLanes s t f n out := by
  unfold State.laneOp
  simp only [hf, hs, Bool.not_true, Bool.false_eq_true, if_false, if_true]
  exact wroteLanes_done s f n out hd

end Sys2Proof.Machine
end

