-- ==== Sys2Proof/Laws/Memory.lean ====
section
/-! SUPPORT. Sys2Proof/Laws/Memory.lean: a byte reads as it was last written, and every memory operation keeps the
canonical form. -/

namespace Sys2Proof.Machine

/-- The listed bytes of a memory are none of them a device or host byte of 0. -/
theorem Memory.wf_iff (m : List Host.Cell) :
    Memory.wf m = true ↔ SMap.rising 0 m = true ∧ ∀ c ∈ m, spadBase ≤ c.1 ∨ c.2 ≠ 0 := by
  simp [Memory.wf, List.all_eq_true]

theorem Memory.wf_nil : Memory.wf [] = true := rfl

theorem Memory.get_set (m : List Host.Cell) (loc a : Nat) (b : Byte) :
    Memory.get (Memory.set m loc b) a = if a = loc then b else Memory.get m a := by
  unfold Memory.set
  by_cases h : loc < spadBase ∧ b = 0
  · rw [if_pos h, Memory.get, SMap.find?_del]
    by_cases ha : a = loc
    · simp [ha, Memory.unlisted, h.1, h.2]
    · simp [ha, Memory.get]
  · rw [if_neg h, Memory.get, SMap.find?_put]
    by_cases ha : a = loc <;> simp [ha, Memory.get]

theorem Memory.set_wf {m : List Host.Cell} (loc : Nat) (b : Byte) (h : Memory.wf m = true) :
    Memory.wf (Memory.set m loc b) = true := by
  rw [Memory.wf_iff] at h ⊢
  unfold Memory.set
  split
  · exact ⟨SMap.rising_del _ h.1, fun c hc => h.2 c (SMap.mem_del hc)⟩
  · rename_i hb
    refine ⟨SMap.rising_put _ _ h.1, fun c hc => ?_⟩
    rcases SMap.mem_insert hc with rfl | hc
    · rcases Classical.not_and_iff_not_or_not.mp hb with hb | hb
      · exact .inl (Nat.le_of_not_lt hb)
      · exact .inr hb
    · exact h.2 c (SMap.mem_del hc)

theorem Memory.flush_wf {m : List Host.Cell} (w : List Host.Cell) (h : Memory.wf m = true) :
    Memory.wf (Memory.flush m w) = true := by
  induction w with
  | nil => exact h
  | cons c w ih => exact Memory.set_wf _ _ ih

/-- A read after the writes of a step sees the newest of them. -/
theorem Memory.get_flush (m w : List Host.Cell) (a : Nat) :
    Memory.get (Memory.flush m w) a = ((SMap.find? w a).getD (Memory.get m a)) := by
  induction w with
  | nil => rfl
  | cons c w ih =>
    obtain ⟨loc, b⟩ := c
    simp only [Memory.flush, Memory.get_set, SMap.find?, beq_iff_eq]
    by_cases h : a = loc
    · simp [h]
    · simp [h, Ne.symm h, ih]

theorem State.byteAt_setByte (s : State) (loc a : Nat) (b : Byte) :
    (s.setByte loc b).byteAt a = if a = loc then b else s.byteAt a := by
  simp only [State.byteAt, State.setByte, SMap.find?, beq_iff_eq]
  by_cases h : a = loc
  · simp [h]
  · simp [h, Ne.symm h]

/-- What `setBytes` leaves at a location. -/
theorem State.byteAt_setBytes (s : State) (loc a : Nat) (bs : List Byte) :
    (s.setBytes loc bs).byteAt a =
      if loc ≤ a ∧ a < loc + bs.length then bs.getD (a - loc) 0 else s.byteAt a := by
  induction bs generalizing loc with
  | nil =>
    have : ¬(loc ≤ a ∧ a < loc) := by omega
    simp [State.setBytes, State.byteAt, cellsAt, this]
  | cons b bs ih =>
    have ih := ih (loc + 1)
    simp only [State.setBytes, State.byteAt, cellsAt, List.cons_append, SMap.find?, beq_iff_eq] at ih ⊢
    by_cases h : loc = a
    · subst h; simp
    · rw [if_neg h, ih]
      by_cases h1 : loc + 1 ≤ a ∧ a < loc + 1 + bs.length
      · have h2 : loc ≤ a ∧ a < loc + (b :: bs).length := by simp; omega
        rw [if_pos h1, if_pos h2]
        obtain ⟨n, rfl⟩ : ∃ n, a = loc + 1 + n := ⟨a - (loc + 1), by omega⟩
        rw [show loc + 1 + n - (loc + 1) = n by omega, show loc + 1 + n - loc = n + 1 by omega]
        simp
      · have h2 : ¬(loc ≤ a ∧ a < loc + (b :: bs).length) := by simp; omega
        rw [if_neg h1, if_neg h2]

end Sys2Proof.Machine
end

