-- ==== Sys2Proof/Tests/Slice0.lean ====
section
/-! SUPPORT. Sys2Proof/Tests/Slice0.lean: small tests.  `decode_…`: words written out from the encoding tables of the
spec.  `illformed_…`: terms that a check refuses.  `test_…`: one step with its expected result taken from the spec.
`witness_…`: for each obligation with hypotheses, states and operands that meet them, each clause at a boundary. -/

namespace Sys2Proof.Tests

open Sys2Proof Sys2Proof.Machine

set_option maxRecDepth 100000
set_option Elab.async false

/-! ## Helpers -/

/-- Partition 0 runs one team of one group on core 0, with 1 GiB of memory mapped at address 0. -/
def base : State := State.reset.placeTables.placeTeam false

/-- `s` with its acting group changed. -/
def grp (s : State) (f : Group → Group) : State := s.setG (f s.g)

/-- `s` with its acting group's team changed. -/
def tm (s : State) (f : Team → Team) : State := s.setT (f s.t)

/-- `s` with its acting group's partition changed. -/
def prt (s : State) (f : Partition → Partition) : State := s.setP (f s.p)

/-- `s` with its package changed. -/
def pkg (s : State) (f : Package → Package) : State := { s with pkg := f s.pkg }

/-- `s` with bytes at a virtual address below 1 GiB. -/
def put (s : State) (va : Nat) (bs : List Byte) : State := s.place (0x40000000 + va) bs

/-- `s` with words of eight bytes at a virtual address below 1 GiB. -/
def putWords (s : State) (va : Nat) (ws : List Word) : State := put s va (ws.flatMap (wordBytes 8))

/-- `s` with one k register set. -/
def setk (s : State) (r : BitVec 6) (v : Word) : State := grp s fun g => g.setK r v

/-- Every member of a list satisfies `p`. -/
def every {α : Type} (l : List α) (p : α → Prop) [DecidablePred p] : Bool := l.all fun x => decide (p x)

/-- A successful result that satisfies `p`. -/
def okWith {ε α : Type} (r : Except ε α) (p : α → Bool) : Bool :=
  match r with
  | .ok x => p x
  | .error _ => false

/-- What `okWith` shows. -/
theorem of_okWith {ε α : Type} {r : Except ε α} {p : α → Bool} (h : okWith r p = true) : ∃ x, r = .ok x ∧ p x = true := by
  cases r with
  | ok x => exact ⟨x, rfl, h⟩
  | error e => exact absurd h (by simp [okWith])

/-- A descriptor that has been read whole and satisfies `p`. -/
def readWith (r : BlockRead) (p : List Word → State → Bool) : Bool :=
  match r with
  | .words d s => p d s
  | _ => false

/-- A check that passes with no marks, and whose target satisfies `p`. -/
def passes (r : Check) (p : Target → Bool) : Bool :=
  match r with
  | .ok t [] _ _ => p t
  | _ => false

/-- A next state that satisfies `p`. -/
def nextWith (r : Res) (p : State → Bool) : Bool :=
  match r with
  | .next t => p t
  | _ => false

/-- The group's control stream stands at `w`. -/
def code (w : Word32) : State := put base 0x1000 (leBytes 4 w.toNat)

/-- The word `w` can be fetched where it is due to issue. -/
def fetches (w : Word32) : Bool :=
  let s := code w
  s.mayIssue true && s.mid.isEmpty && !s.g.ended && s.g.park.isNone && okWith (s.fetch32 s.g.cpc) fun x => x.1 == w

/-- The premises of `IllegalControl` have a state for a word that can be fetched. -/
theorem fetches_premises {w : Word32} (h : fetches w = true) :
    ∃ s s' : State, s.mayIssue true = true ∧ s.mid = [] ∧ s.g.ended = false ∧ s.g.park = none ∧ s.fetch32 s.g.cpc = .ok (w, s') := by
  simp only [fetches, Bool.and_eq_true, Bool.not_eq_true', Option.isNone_iff_eq_none, List.isEmpty_iff] at h
  obtain ⟨⟨⟨⟨h1, h0⟩, h2⟩, h3⟩, h4⟩ := h
  obtain ⟨x, hx, he⟩ := of_okWith h4
  refine ⟨code w, x.2, h1, h0, h2, h3, ?_⟩
  rw [hx, ← eq_of_beq he]

/-! ## Witnesses: the control stream -/

theorem witness_kalu : every [0x04000005#32, 0x04000007, 0x0400000C, 0x0400000F, 0x04000013, 0x0400001C, 0x04000022, 0x040000FF,
    0x04000120, 0x04003F21] fun w =>
    w.extractLsb' 26 6 = 0x01#6 ∧
    ((fieldFn w).toNat ∉ [0x00, 0x01, 0x02, 0x03, 0x04, 0x08, 0x09, 0x0A, 0x0B, 0x10, 0x11, 0x12, 0x18, 0x19, 0x1A, 0x1B,
        0x20, 0x21] ∨ ((fieldFn w).toNat ∈ [0x20, 0x21] ∧ fieldB w ≠ 0)) ∧ fetches w = true := by decide +kernel

theorem witness_immediate : every [0x18003000#32, 0x18000040, 0x18000800] fun w =>
    w.extractLsb' 26 6 = 0x06#6 ∧ (w.extractLsb' 12 2 = 3#2 ∨ w.extractLsb' 6 6 ≠ 0#6) ∧ fetches w = true := by decide +kernel

theorem witness_compare : every [0x24000001#32, 0x240000FF] fun w =>
    w.extractLsb' 26 6 = 0x09#6 ∧ fieldFn w ≠ 0 ∧ fetches w = true := by decide +kernel

theorem witness_predicate : every [0x3C000080#32, 0x3C000008, 0x3C000001, 0x3C800000, 0x3C020000, 0x3C000800, 0x3C000140] fun w =>
    w.extractLsb' 26 6 = 0x0F#6 ∧
    (4 ≤ (w.extractLsb' 5 3).toNat ∨ w.extractLsb' 3 2 ≠ 0#2 ∨
      (w.extractLsb' 5 3 ≠ 3#3 ∧ (w.extractLsb' 0 3 ≠ 0#3 ∨ w.extractLsb' 23 3 ≠ 0#3 ∨ w.extractLsb' 17 3 ≠ 0#3 ∨
        w.extractLsb' 11 3 ≠ 0#3)) ∨
      (w.extractLsb' 5 3 = 2#3 ∧ fieldB w ≠ 0)) ∧ fetches w = true := by decide +kernel

theorem witness_branch : every [0x2CC00000#32, 0x2C080000, 0x30C00000, 0x30080000] fun w =>
    (w.extractLsb' 26 6 = 0x0B#6 ∨ w.extractLsb' 26 6 = 0x0C#6) ∧
    (3 ≤ (w.extractLsb' 22 4).toNat ∨ (w.extractLsb' 22 4 = 0#4 ∧ w.extractLsb' 19 3 ≠ 0#3)) ∧ fetches w = true := by decide +kernel

theorem witness_badFetch : 2 ^ 57 ≤ (0x200000000000000 : Word).toNat := by decide +kernel

theorem witness_jr : (every [0x34100000#32, 0x34000100, 0x34000002] fun w =>
    w.extractLsb' 26 6 = 0x0D#6 ∧ (fieldD w ≠ 0 ∨ fieldB w ≠ 0 ∨ 2 ≤ (fieldFn w).toNat) ∧ fetches w = true) ∧
    (setk base 1 4).g.getK 1 % 4 = 0 ∧ (setk base 1 5).g.getK 1 % 4 ≠ 0 := by decide +kernel

theorem witness_loop : (1 : BitVec 6) ≠ 0 ∧ every [0x38000000#32, 0x38104000] fun w =>
    w.extractLsb' 26 6 = 0x0E#6 ∧ (fieldD w = 0 ∨ fieldA w ≠ 0) ∧ fetches w = true := by decide +kernel

/-- A block for the lane queue. -/
def blk : LaneBlock := { start := 0, args := [0], fmt := 0 }

/-- A trap slot of an idle lane stream. -/
def slot0 : TrapSlot := base.g.saveBlock

/-- A group in its handler. -/
def inTrap (g : Group) : Group := { g with inHandler := true, trapSlot := some slot0 }

theorem witness_laneInterface :
    base.regionHeld = false ∧ base.g.inHandler = false ∧ (grp base fun g => { g with lq := List.replicate 7 blk }).g.lq.length < 8 ∧
    8 ≤ (grp base fun g => { g with lq := List.replicate 8 blk }).g.lq.length ∧
    (grp base inTrap).g.inHandler = true ∧ (grp base inTrap).g.handlerBlock = none ∧ (grp base inTrap).g.running = false ∧
    (grp base inTrap).regionHeld = false ∧ (grp base fun g => { g with cq := [5] }).g.cq = 5 :: [] ∧
    base.g.cq = [] ∧ base.g.lq = [] ∧ base.g.running = false ∧ base.g.handlerBlock = none ∧
    (every [fun g : Group => { g with running := true }, fun g => { inTrap g with handlerBlock := some blk },
        fun g => { g with lq := [blk] }] fun f => let g := (grp base f).g
      (grp base f).regionHeld = false ∧ g.cq = [] ∧ (g.running = true ∨ g.handlerBlock ≠ none ∨ g.lq ≠ [])) ∧
    (grp base fun g => { inTrap g with handlerBlock := some blk }).g.inHandler = true := by decide +kernel

theorem witness_specialRegister :
    (setk base 1 4).g.getK 1 % 8 ≤ 4 ∧ 5 ≤ ((setk base 1 5).g.getK 1).toNat % 8 ∧
    Instr.wf (.sread 2 0) = true ∧ base.regionHeld = false := by decide +kernel

/-- A group with `n` loads and stores in flight. -/
def inFlight (n : Nat) (s : State) : State :=
  grp s fun g => { g with gl := List.replicate n {}, sp := List.replicate n {}, st := List.replicate n {} }

theorem witness_cwait : (every [0#2, 1, 2] fun c => c ≠ 3) ∧ (inFlight 2 (setk base 1 2)).g.cwait = none ∧
    (inFlight 2 (setk base 1 2)).g.gl.length ≤ ((inFlight 2 (setk base 1 2)).g.getK 1).toNat ∧
    ((inFlight 3 (setk base 1 2)).g.getK 1).toNat < (inFlight 3 (setk base 1 2)).g.gl.length ∧
    (inFlight 3 (setk base 1 2)).g.cwait = none ∧
    (every [2, 3] fun n => (grp (inFlight n base) fun g => { g with cwait := some .cwaitSp, threshold := some 2 }).g.cwait = some .cwaitSp ∧
      (grp (inFlight n base) fun g => { g with cwait := some .cwaitSp, threshold := some 2 }).g.threshold = some 2 ∧
      (inFlight n base).g.sp.length = n) := by decide +kernel

theorem witness_assert : base.regionHeld = false ∧ (base.g.getC 0 = false ∧ (0 : BitVec 1) = 0) ∧
    every [0xC0100000#32, 0xC0000100, 0xC0000010] fun w =>
      w.extractLsb' 26 6 = 0x30#6 ∧ (fieldD w ≠ 0 ∨ fieldB w ≠ 0 ∨ w.extractLsb' 4 4 ≠ 0#4) ∧ fetches w = true := by decide +kernel

/-- A descriptor with two rungs and one replay (R195). -/
def regionDesc : List Word := [0x5, 0x000102007FFF0000, 0, 0, 0, 0, 0, 0]

/-- A region as PBEGIN opens it. -/
def region (spec : Bool) : Region :=
  { id := 0, addr := 0x4000, desc := regionDesc, rung := 0, start := 0, hit := false, spec, rsw := none
    ckpt := [(0, { k := [(1, 9)], c := 0, fmt := 0, cpc := 0x1004 })], ckptBars := [] }

/-- The team has an open region. -/
def opened (spec : Bool) (s : State) : State := tm s fun t => { t with openRegion := some (region spec), nextRegion := 1 }

/-- The team has a pending region. -/
def pended (s : State) : State := tm s fun t => { t with pending := some (region true), nextRegion := 1 }

/-- A partition whose call queue has 2^n slots. -/
def ring (n : Word) (s : State) : State := prt s fun p => { p with page := { p.page with cqCtl := n, cqBase := 0x2000, capMap := 0x5000 } }

theorem witness_scall : Instr.wf (.scall 2 4 7) = true ∧ ¬(opened true base).plain ∧ (opened true base).regionHeld = false ∧
    (pended base).regionHeld = true ∧
    (every [5#64, 17] fun n => (ring n base).plain ∧ (ring n base).regionHeld = false ∧
      ¬(6 ≤ field (ring n base).p.page.cqCtl 0 5 ∧ field (ring n base).p.page.cqCtl 0 5 ≤ 16)) ∧
    every [6#64, 16] fun n => (ring n base).plain ∧ (ring n base).regionHeld = false ∧
      6 ≤ field (ring n base).p.page.cqCtl 0 5 ∧ field (ring n base).p.page.cqCtl 0 5 ≤ 16 := by decide +kernel

theorem witness_brk : let d := prt base fun p => { p with dbg := { p.dbg with ctl := 1 } }
    base.regionHeld = false ∧ bit base.p.dbg.ctl 0 = false ∧ base.g.inHandler = false ∧ base.g.tx.active = 0 ∧
    (grp base inTrap).g.inHandler = true ∧ bit (grp base inTrap).p.dbg.ctl 0 = false ∧ (grp base inTrap).regionHeld = false ∧
    bit d.p.dbg.ctl 0 = true ∧ d.regionHeld = false ∧ d.g.stepping ≠ some true ∧ d.g.asked = false ∧
    (let x : DebugStop := { ns := 0, hit := false, groups := [0] }
     let a := prt (grp d fun g => { g with asked := true }) fun p => { p with dbg := { p.dbg with stops := [x] } }
     a.g.asked = true ∧ a.g.stepping ≠ some true ∧ a.p.dbg.stops.find? (·.groups.contains a.actor) = some x) ∧
    (grp d fun g => { g with stepping := some true }).g.stepping = some true := by decide +kernel

theorem witness_tret :
    let s := fun v => grp base fun g => { inTrap g with trapInfo1 := v }
    (every [0x1000#64, 0x1004] fun v => (s v).regionHeld = false ∧ (s v).g.inHandler = true ∧ (s v).g.trapSlot = some slot0 ∧
      (s v).g.handlerBlock = none ∧ (s v).g.running = false ∧ (s v).g.trapInfo1.toNat % 4 = 0 ∧ (s v).g.heldTrap = none) ∧
    (s 0x1001).g.trapInfo1.toNat % 4 ≠ 0 ∧ (s 0x1001).g.inHandler = true ∧
    (grp (s 0) fun g => { g with handlerBlock := some blk }).g.handlerBlock ≠ none ∧
    (grp (s 0) fun g => { g with running := true }).g.running = true ∧ base.g.inHandler = false := by decide +kernel

theorem witness_nopEnd : (every [base, opened false base, grp base inTrap] fun s =>
      s.waitingAt = none ∧ s.regionHeld = false ∧ s.plain ∧ s.commandsOf s.g.team = []) ∧
    base.g.inHandler = false ∧ (grp base inTrap).g.inHandler = true ∧ (opened true base).waitingAt = none ∧
    (opened true base).regionHeld = false ∧ ¬(opened true base).plain ∧ (pended base).waitingAt = none ∧
    (pended base).t.openRegion = none ∧ (pended base).t.pending ≠ none := by decide +kernel

/-- Two groups in the team, of which the other waits at PBEGIN. -/
def partner : State :=
  let s := tm base fun t => { t with type := { t.type with groups := 2 }, allot := { seats := [(0, 0), (1, 0)] } }
  { s with groups := s.groups.put 1 { idx := 1, port := 1, cpc := 0x1000, atPbegin := some 0x4000 } }

theorem witness_endMismatch : partner.waitingAt = some 0x4000 := by decide +kernel

/-- Two groups in an open region that is not speculative, of which the other may have closed it by PEND.A. -/
def closedBy (closed : Option Bool) : State :=
  let s := opened false (tm base fun t => { t with type := { t.type with groups := 2 } })
  { s with groups := s.groups.put 1 { idx := 1, port := 1, closed } }

theorem witness_endCloses : let s := closedBy (some false)
    s.waitingAt = none ∧ s.regionHeld = false ∧ s.plain ∧ s.commandsOf s.g.team = [] ∧ s.g.inHandler = false ∧
    1 ∈ s.partners s.g.team ∧ 1 ≠ s.actor ∧ (s.group 1).closed = some false ∧
    (every (s.partners s.g.team) fun k => k ≠ s.actor → (s.group k).closed ≠ none) ∧
    (every ((closedBy none).partners 0) fun k => k ≠ s.actor → ((closedBy none).group k).closed ≠ some false) := by decide +kernel

/-- A group at PBEGIN with its descriptor in memory and its address in k1. -/
def atRegion (s : State) : State := setk (putWords s 0x4000 regionDesc) 1 0x4000

/-- A team whose pending region holds `n` checkpoints of five lines in its core's version shadow. -/
def crowded (n : Nat) (s : State) : State :=
  tm s fun t => { t with
    pending := some { region true with ckpt := (List.range n).map fun i => (i, { k := [], c := 0, fmt := 0, cpc := 0 }) }, nextRegion := 1 }

/-- A region descriptor whose status word stands at `rsw`. -/
def rswDesc (rsw : Word) : List Word := [0x5, 0x000102007FFF0000, 0, 0, 0, 0, rsw, 0]

/-- The Locus table holds rung `r` for the region's key. -/
def known (r : BitVec 3) (s : State) : State :=
  let v := s.keyOf s.t 5
  prt s fun p => { p with locus := [(locusSet v * 4, { v, rung := r, conf := 0, trips := 0, used := 0 })] }

theorem witness_pbegin : (every [atRegion base, atRegion partner, atRegion (crowded 0 base), atRegion (crowded 409 base)] fun s =>
    let w := s.setG { s.g with atPbegin := some 0x4000 }
    s.mid = [] ∧ s.limit = none ∧ s.g.acqHold = none ∧
    s.g.inHandler = false ∧ s.g.tx.depth = 0 ∧ s.t.openRegion = none ∧
    (if s.g.getK 1 = 0 then s.t.type.ldef else s.g.getK 1) = 0x4000 ∧
    (every s.waitingAt.toList fun x => x = 0x4000) ∧ s.g.laneIdle = true ∧ s.g.gl = [] ∧ s.g.sp = [] ∧ w.allAtPbegin = true ∧
    s.actor ∈ s.partners s.g.team ∧ s.t.type.groups ≤ 32 ∧
    readWith (w.readBlocks 0x4000 4 []) (fun d _ => d == regionDesc) = true ∧ regionDescOk regionDesc = true ∧ dword regionDesc 6 = 0) ∧
    (crowded 409 base).ckptRoom = false ∧ (crowded 408 base).ckptRoom = true := by
  decide +kernel

theorem witness_pbeginWord : (every [0#3, 1, 2, 7] fun r => let s := known r (atRegion base)
      readWith ((s.setG { s.g with atPbegin := some 0x4000 }).readBlocks 0x4000 4 []) (fun d u => d == regionDesc &&
        (u.p.locusFind (u.keyOf u.t (dword d 0))).any fun x => x.2.rung == r) = true) ∧
    descNrung regionDesc = 2 ∧
    (every [(0x5000#64, true), (0x40000000, false)] fun x => let s := putWords (setk base 1 0x4000) 0x4000 (rswDesc x.1)
      readWith ((s.setG { s.g with atPbegin := some 0x4000 }).readBlocks 0x4000 4 []) (fun d u =>
        regionDescOk d && dword d 6 == x.1 &&
          match u.check u.g.team x.1 8 .write false with
          | .ok _ _ _ _ => x.2
          | .fault c => !x.2 && c == causePageInvalid
          | .busy => false) = true) := by
  decide +kernel

theorem witness_pbeginFaults : (grp base inTrap).g.inHandler = true ∧
    (grp base fun g => { g with tx := { g.tx with depth := 1 } }).g.tx.depth ≠ 0 ∧
    (every [true, false] fun b => (opened b base).g.inHandler = false ∧ (opened b base).g.tx.depth = 0 ∧
      (opened b base).t.openRegion = some (region b) ∧ (opened b base).g.closed = none ∧ (opened b base).mid = []) ∧
    (grp (opened true base) fun g => { g with closed := some false }).g.closed = some false ∧
    (grp base fun g => { g with running := true }).g.laneIdle = false ∧ (grp base fun g => { g with running := true }).waitingAt = none ∧
    (pended base).t.pending ≠ none ∧ (pended base).t.openRegion = none ∧
    (0 : BitVec 4).toNat < (tm (pended base) fun t => { t with type := { t.type with bars := 1 } }).t.type.bars := by decide +kernel

theorem witness_pendingHolds : let s := tm (pended base) fun t => { t with type := { t.type with bars := 16, zslots := 32 } }
    s.t.pending ≠ none ∧ s.t.openRegion = none ∧ (every [0#4, 15] fun b => b.toNat < s.t.type.bars) ∧
    (every [0#5, 31] fun z => z.toNat < s.t.type.zslots) ∧ every [0#6, 62] fun a => a.getLsbD 0 = false := by decide +kernel

/-! ## Witnesses: memory, barriers, engines, regions and tasks -/

/-- The bounds of a signed offset of ten bits, and 0. -/
def offsets : List (BitVec 10) := [0, 0x1FF, 0x200]

/-- A machine whose page has its busy bit set. -/
def busyPage : State := base.place 0x3000 (wordBytes 8 0x4000026F)

/-- The team has 8 KiB of scratchpad, two accumulator slots and one valid barrier. -/
def roomy (s : State) : State :=
  tm s fun t => { t with type := { t.type with zslots := 2, bars := 1, spad := 8 }, bars := [(0, 0x4000000000000000 + 0x40000000000 + 0x100000000)] }

/-- `base` with level-3 entry `i` set to `e`. -/
def mapped (i : Nat) (e : Word) : State := base.place (0x3000 + 8 * i) (wordBytes 8 e)

/-- The non-coherent window and a coherent window of the host, mapped at 1 GiB. -/
def hostMap (coherent : Bool) : State := mapped 1 (if coherent then 0x800000000006F else 0xC00000000006F)

/-- A host address. -/
def hostAt (a : Nat) (coherent : Bool) : Target := targetOf (at_ (if coherent then 8 else 12) 48 + BitVec.ofNat 64 a).toNat

theorem witness_controlAccess :
    let s := setk base 1 0x4000
    let w := setk (roomy base) 1 0x8000000000000000
    let h := setk (hostMap false) 1 0x40000100
    (every [0#2, 1, 2, 3] fun z => every offsets fun o =>
      let n : Nat := 2 ^ z.toNat
      let addr := BitVec.ofInt 64 ((s.g.getK 1).toNat + o.toInt * n)
      let tgt := Target.dev (0x40000000 + addr.toNat)
      let u := s.afterCheck tgt [] 0 0 true
      s.regionHeld = false ∧ s.g.memHold [if s.inWindow addr then s.g.sp else s.g.gl] = none ∧ s.g.memHold [s.g.st] = none ∧
      s.check s.g.team addr n .read false = .ok tgt [] 0 0 ∧ s.check s.g.team addr n .write false = .ok tgt [] 0 0 ∧
      s.lockWait tgt.loc n false = false ∧ u.regionForbids tgt = false ∧ u.lineHeld tgt = false ∧
      u.lockWait tgt.loc n true = false ∧ u.noRoom tgt.loc = false) ∧
    (match h.check h.g.team 0x40000100 8 .write false with
      | .ok tgt [] 0 0 => let u := h.afterCheck tgt [] 0 0 true
        tgt.isNonCoherent && !tgt.isWindow && !u.regionForbids tgt && !u.lineHeld tgt && !u.lockWait tgt.loc 8 true && !u.noRoom tgt.loc
      | _ => false) = true ∧
    (match h.check h.g.team 0x40000100 8 .read false with
      | .ok tgt [] 0 0 => tgt.isNonCoherent && !h.lockWait tgt.loc 8 false
      | _ => false) = true ∧ h.regionHeld = false ∧ ¬(opened true s).plain ∧ (opened true s).regionHeld = false ∧
    (opened true s).check s.g.team 0x4000 8 .write false = .ok (.dev 0x40004000) [] 0 0 ∧
    (opened true s).noRoom 0x40004000 = false ∧ (opened true s).regionForbids (.dev 0x40004000) = false ∧
    (w.g.memHold [if w.inWindow 0x8000000000001FF8 then w.g.sp else w.g.gl] = none ∧ w.inWindow 0x8000000000001FF8 = true ∧
      w.check w.g.team 0x8000000000001FF8 8 .write false = .ok (.spad 0 0x1FF8) [] 0 0) ∧
    s.check s.g.team 0x4001 8 .read false = .fault causeMisaligned ∧
    s.check s.g.team 0x40000000 8 .write false = .fault causePageInvalid ∧
    w.check w.g.team 0x8000000000002000 8 .read false = .fault causeBadWindow ∧
    busyPage.check busyPage.g.team 0x4000 8 .read false = .busy := by decide +kernel

/-- A load of k5. -/
def flight5 : Flight := { land := [.k 5 9] }

/-- A load of k5 that has still to read host memory, at address 0x100. -/
def late5 : Flight := { late := [{ loc := hostBase + 0x100, len := 8, dest := .k 5 false }], nonCoherent := true }

/-- A posted store to host memory, of the load and store numbered 0 of group 0. -/
def posted0 : Posted := { loc := hostBase + 0x100, bytes := [1, 2, 3, 4], store := some (0, 0) }

theorem witness_landing : let s := grp base fun g => { g with gl := [flight5], sp := [flight5], st := [{}] }
    let n := pkg (grp s fun g => { g with gl := [late5] }) fun p => { p with posted := [posted0] }
    s.present 0 = true ∧ (s.group 0).gl = flight5 :: [] ∧ (s.group 0).sp = flight5 :: [] ∧ (s.group 0).st = {} :: [] ∧
    ((grp s fun g => { g with gl := [] }).group 0).gl = [] ∧ ((grp s fun g => { g with gl := [] }).group 0).sp = flight5 :: [] ∧
    (s.group 0).gl = [flight5] ∧ flight5.seq = flight5.seq ∧
    flight5.land = [.k 5 9] ∧ flight5.late = [] ∧ n.present 0 = true ∧ (n.group 0).gl = late5 :: [] ∧
    late5.late = [{ loc := hostBase + 0x100, len := 8, dest := .k 5 false }] ∧ late5.land = [] ∧
    (pkg n fun p => { p with hostUp := false }).pkg.hostUp = false ∧ n.g.stop ≠ .halt ∧ (n.team 0).phase ≠ .killing ∧
    n.pkg.posted = [posted0] ∧ posted0.sent = none ∧ n.pkg.hostUp = true ∧ n.pkg.posted[0]? = some posted0 ∧
    (n.group 0).st = {} :: [] ∧ posted0.store = some (0, (0 : Nat)) ∧ posted0.irq = none ∧ posted0.bytes ≠ [] ∧
    (grp base fun g => { g with cwait := some .translate }).present 0 = true ∧
    ((grp base fun g => { g with cwait := some .translate }).group 0).cwait = some .translate ∧
    ((grp base fun g => { g with lwait := some .translate }).group 0).lwait = some .translate := by decide +kernel

/-- The premises of an atomic on 4, 8 or 16 bytes at the address in k1, whose target is `tgt`. -/
def atomicReady (s : State) (tgt : Target) (nc : Bool) : Bool :=
  let u := (s.afterCheck tgt [] 0 0 true).syncFor tgt
  decide (s.regionHeld = false ∧ s.g.memHold [if s.inWindow (s.g.getK 1) then s.g.sp else s.g.gl] = none ∧
    u.regionForbids tgt = false ∧ u.lineHeld tgt = false ∧ u.noRoom tgt.loc = false ∧
    tgt.isNonCoherent = nc ∧ leNat (u.viewBytes s.g.team tgt.loc 8) ≠ (s.g.getK 2).toNat ∧
    leNat (u.viewBytes s.g.team tgt.loc 8) = (s.g.getK 3).toNat) &&
  ([4, 8, 16].all fun n => passes (s.check s.g.team (s.g.getK 1) n .write false) (· == tgt) && !u.lockWait tgt.loc n true) &&
  (nc || [4, 8].all fun n => passes (s.check s.g.team (s.g.getK 1) n .write true) (· == tgt))

theorem witness_controlAtomic :
    (every [false, true] fun region =>
      let s := setk (setk base 1 0x4000) 2 7
      let s := if region then opened true s else s
      atomicReady s (.dev 0x40004000) false = true ∧ (s.plain ↔ region = false)) ∧
    atomicReady (setk (setk (hostMap false) 1 0x40000100) 2 7) (hostAt 0x100 false) true = true := by
  decide +kernel

/-- The control stream is parked by WAITM. -/
def parkedWaitm (wake : Bool) (since : Nat) : State :=
  grp base fun g => { g with park := some (.waitm 2 0x4000 8 0x40004000 wake since) }

theorem witness_waitm : let s := setk base 1 0x4000
    s.regionHeld = false ∧ s.g.memHold [] = none ∧ s.check s.g.team 0x4000 8 .read false = .ok (.dev 0x40004000) [] 0 0 ∧
    leNat ((s.afterCheck (.dev 0x40004000) [] 0 0 false).viewBytes s.g.team 0x40004000 8) = (s.g.getK 2).toNat ∧
    leNat ((s.afterCheck (.dev 0x40004000) [] 0 0 false).viewBytes s.g.team 0x40004000 8) ≠ (s.g.getK 1).toNat ∧
    (parkedWaitm true 0).g.park = some (.waitm 2 0x4000 8 0x40004000 true 0) ∧ (parkedWaitm true 0).g.stop = .none ∧
    (parkedWaitm true 0).t.phase = .resident ∧ s.lockWait 0x40004000 8 false = false ∧
    (every [true, false] fun b => (parkedWaitm b 0).check 0 0x4000 8 .read false = .ok (.dev 0x40004000) [] 0 0 ∧
      (parkedWaitm b 0).lockWait 0x40004000 8 false = false) ∧
    0 + 4000 ≤ { parkedWaitm false 0 with phys := 4000 }.phys := by decide +kernel

/-- Barrier 0 of a team with barriers 0 to 15. -/
def barred (x : Bar) : State := tm base fun t => { t with type := { t.type with bars := 16 }, bars := [(0, x.word), (15, x.word)] }

/-- A valid barrier with `arrive` arrivals due. -/
def bar (arrive : Nat) (pend : Int) (refs : Nat) : Bar := { phase := false, valid := true, refs, init := 2, arrive, pend }

/-- A second group of the team waits at barrier 0, where one arrival is due. -/
def barWaiter : State :=
  let s := tm (barred (bar 1 0 0)) fun t => { t with type := { t.type with groups := 2 }, allot := { seats := [(0, 0), (1, 0)] } }
  { s with groups := s.groups.put 1 { idx := 1, port := 1, cpc := 0x1000, cwait := some .barWait, atBarrier := some (0, false, 2) } }

/-- A pending region has a command that names barrier 0. -/
def barPending : State :=
  let s := opened true (tm (barred (bar 1 0 0)) fun t => { t with pending := some (region true), nextRegion := 2
                                                                  openRegion := some { region true with id := 1 } })
  { s with cores := s.cores.put 0 { s.core 0 with copyQ := [{ id := 0, kind := .tcopy, part := 0, team := 0, group := 0, gid := 0, addr := 0x4000, desc := [], bar := some 0, acq := false, rel := false, scope := 0, slot := 0, region := some 0, rung := 0, dmode := 0 }] } }

theorem witness_barrier : (every [0#4, 15] fun b =>
    let s := barred (bar 2 (-(2 ^ 31)) 0)
    b.toNat < s.t.type.bars ∧ s.regionHeld = false ∧ s.pendingNames b.toNat = false ∧ s.g.atBarrier = none ∧ s.g.cwait = none ∧
    (s.bar s.g.team b.toNat).valid = true ∧ (s.bar s.g.team b.toNat).refs = 0 ∧ 2 ≤ (s.bar s.g.team b.toNat).arrive ∧
    (every (s.groupsOf s.g.team) fun j => (s.group j).atBarrier.map (·.1) ≠ some b.toNat)) ∧
    (1 ≤ (1 : Word).toNat ∧ (1023 : Word).toNat ≤ 1023 ∧ (0 : Word).toNat < 1 ∧ 1023 < (1024 : Word).toNat) ∧
    (every [(-(2 ^ 31) : Int), 2 ^ 31 - 1] fun p => let x := (barred (bar 1 p 0)).bar 0 0
      x.valid = true ∧ x.arrive ≠ 0 ∧ x.arrive = 1 ∧ x.pend ≠ 0 ∧ -(2 ^ 31) ≤ x.pend + (0#64).toInt ∧ x.pend + (0#64).toInt < 2 ^ 31 ∧
      (x.pend + (-1#64).toInt < -(2 ^ 31) ∨ 2 ^ 31 ≤ x.pend + (1#64).toInt)) ∧
    (let x := (barred (bar 0 0 0)).bar 0 0; x.valid = true ∧ x.arrive = 0 ∧ x.pend + (1#64).toInt ≠ 0) ∧
    (let s := barWaiter;
      (∃ j, j ∈ s.groupsOf s.g.team ∧ (s.group j).atBarrier.map (·.1) = some 0) ∧ (s.bar 0 0).refs = 0 ∧ (s.bar 0 0).arrive = 1 ∧
      (s.bar 0 0).pend = 0 ∧ s.pendingNames 0 = false ∧ s.g.atBarrier = none ∧ (s.group 1).stop = .none) ∧
    (barPending.pendingNames 0 = true ∧ barPending.regionHeld = false ∧ barPending.g.atBarrier = none) ∧
    ((barred (bar 1 0 0)).bar 0 0).arrive = 1 ∧ ((barred (bar 1 0 0)).bar 0 0).pend = 0 ∧
    ((barred (bar 1 0 1023)).bar 0 0).refs ≠ 0 ∧ ((barred { bar 1 0 0 with valid := false }).bar 0 0).valid = false ∧
    ((barred (bar 1 0 0)).bar 0 0).phase = bit (base.g.getK 0) 0 := by decide +kernel

/-- A copy of eight FP32 elements (R351). -/
def copyDesc : List Word := [0x5000, 0x6000, 0x0000004000000040, 0, 0x0001000000080000, 0, 0, 0]

/-- The same as slice of a collective of two (R354). -/
def sliceDesc : List Word := [0x5000, 0x6000, 0x0000004000000040, 0, 0x0001000000080000, 0, 0, 0x00010002]

/-- A requantization of 32 by 32 elements (R355). -/
def rqtDesc : List Word := [0x5000, 0x6000, 0x0000002000000020, 0, 0x0020000000200044, 0x7000, 0x8000, 0]

/-- A gather of one row of eight FP32 elements (R356). -/
def gatherDesc : List Word := [0x5000, 0x6000, 0x7000, 0x0000004000000040, 0x0000000100000000, 4, 8, 0]

/-- An MMA of FP16 operands in the scratchpad (R357). -/
def matDesc : List Word := [0x8000000000000000, 0x8000000000001000, 0, 0, 0x0000004000000040, 0, 0x22, 0]

/-- An FP32 tile (R360). -/
def tileDesc : List Word := [0x5000, 0x100, 0, 0, 0, 0, 0, 0]

/-- A state with a descriptor in memory and its address in k1. -/
def described (d : List Word) : State := setk (putWords (roomy base) 0x4000 d) 1 0x4000

/-- The premises of EngineAcceptance for a command of barrier 0, or of none. -/
def accepts (d : List Word) (w : CmdWord) (resolve : List Word → Option CmdSpec) : Bool :=
  every [0#1, 1] fun n =>
    let s := described d
    let w := { w with nb := n }
    s.mid = [] ∧ s.limit = none ∧ s.regionHeld = false ∧ s.g.acqHold = none ∧ s.engineFull w = false ∧ (n = 0 → w.bar.toNat < s.t.type.bars) ∧
    (w.kind.onMatrix = true → w.slot < s.t.type.zslots) ∧ (s.g.getK 1).toNat % 64 = 0 ∧
    readWith (s.readBlocks (s.g.getK 1) 4 []) (fun y u => y == d &&
      match resolve d with
      | some x => !(x.collective.any fun z => u.sliceBad w z.1 z.2) && (u.cmdFault w (s.g.getK 1) x).isNone &&
          !(x.collective.any fun z => u.tooManyCollectives z.1) && decide ((u.bar s.g.team 0).refs < 1023)
      | none => false) = true

theorem witness_acceptCopy : accepts copyDesc { kind := .tcopy, a := 1 } (copySpec none false false) = true ∧
    accepts sliceDesc { kind := .tcopyC, a := 1, slice := 1 } (copySpec none false true) = true ∧
    accepts rqtDesc { kind := .rqt, a := 1 } (copySpec none true false) = true ∧
    accepts gatherDesc { kind := .tgath, a := 1 } (fun d => (gatherPlan d).map fun p =>
      { dests := [p.dst], foots := p.foots
        aligns := [(p.table, elemAlign p.sf), (p.table + BitVec.ofNat 64 p.tst, elemAlign p.sf), (p.dst, elemAlign p.df),
          (p.dst + BitVec.ofNat 64 p.dstr, elemAlign p.df), (p.index, p.idx)] }) = true := by
  decide +kernel

theorem witness_acceptMatrix : every [0, 1] fun z =>
    accepts matDesc { kind := .mma, a := 1, slot := z } (fun d => do
      let sh ← matShape d none
      if matOk d sh z 2 then
        some { shape := sh, reads := [z], foots := matFoots d sh
               aligns := aligned (rungFields sh).1 (dword d 0) (field (dword d 4) 0 32) ++
                 aligned (rungFields sh).2.1 (dword d 1) (field (dword d 4) 32 32) }
      else none) = true ∧
    accepts tileDesc { kind := .tload, a := 1, slot := z } (tileSpec z 2 false) = true ∧
    accepts tileDesc { kind := .tstore, a := 1, slot := z } (tileSpec z 2 true) = true := by decide +kernel

/-- An accepted copy. -/
def copyCmd : Cmd :=
  { id := 0, kind := .tcopy, part := 0, team := 0, group := 0, gid := 0, addr := 0x4000, desc := copyDesc, bar := none, acq := false
    rel := false, scope := 0, slot := 0, region := none, rung := 0, dmode := 0 }

/-- A tile store about to write its last row. -/
def tileCmd : Cmd := { copyCmd with kind := .tstore, desc := tileDesc, done := 63 }

/-- Commands in the queues of core 0. -/
def queued (copy mat : List Cmd) : State :=
  { roomy base with cores := (roomy base).cores.put 0 { (roomy base).core 0 with copyQ := copy, matQ := mat } }

theorem witness_acceptFaults : let live := fun (c : Cmd) => c.kind != .tzero && !c.arrived
    64 ≤ (((queued (List.replicate 64 copyCmd) []).core 0).copyQ.filter live).length ∧
    64 ≤ (((queued (List.replicate 40 copyCmd) (List.replicate 24 tileCmd)).commandsOf 0).filter live).length ∧
    ((tm (queued [] []) fun t => { t with bars := [(0, (bar 1 0 1023).word)] }).bar 0 0).refs = 1023 ∧
    (queued (List.replicate 64 copyCmd) []).regionHeld = false ∧ (queued (List.replicate 64 copyCmd) []).g.acqHold = none ∧
    (queued [] []).mid = [] ∧ (queued [] []).limit = none ∧
    (queued (List.replicate 63 copyCmd) []).engineFull { kind := .tcopy, a := 1 } = false ∧
    (queued (List.replicate 64 { copyCmd with arrived := true }) []).engineFull { kind := .tcopy, a := 1 } = false ∧
    ((setk (queued [] []) 1 0x4020).g.getK 1).toNat % 64 ≠ 0 ∧
    (match (setk (queued [] []) 1 0x40000000).readBlocks 0x40000000 4 [] with
      | .fail c x => c == causePageInvalid && x == 0x40000000
      | _ => false) = true ∧
    readWith ((described []).readBlocks 0x4000 4 []) (fun d _ => (copySpec none false false d).isNone) = true := by decide +kernel

/-- Two open regions' worth of a team: one pending, with a command at barrier 0. -/
def namesBar (s : State) : State :=
  let s := opened true (tm s fun t => { t with pending := some (region true), nextRegion := 2, openRegion := some { region true with id := 1 } })
  { s with cores := s.cores.put 0 { s.core 0 with copyQ := [{ copyCmd with bar := some 0, region := some 0 }] } }

/-- What steps 5 to 8 of the acceptance of form `f` find in `s`, after a descriptor that can be read: a slice, a system
destination, an unwritten slot, a bound, an alignment, and the barrier's state. -/
def finds (s : State) (f : Nat) (n : BitVec 1) (p : State → Bool → Bool → Option Nat → Option Word → Bool → Bool) : Bool :=
  match (engineForms s 1 2 0 0 0 n 0 0)[f]? with
  | some (_, w, resolve) =>
    s.mid.isEmpty && s.limit.isNone && !s.regionHeld && s.g.acqHold.isNone && !s.engineFull w &&
    readWith (s.readBlocks (s.g.getK 1) 4 []) fun d u => match resolve d with
      | some x => p u (x.collective.any fun y => u.sliceBad w y.1 y.2) (u.t.speculative && x.dests.any u.isSystemDest)
          (x.reads.find? u.t.unwritten) (x.foots.findSome? (u.footFail u.g.team)) (x.aligns.any fun y => y.1.toNat % y.2 != 0)
      | none => false
  | none => false

theorem witness_acceptSteps :
    finds (setk (described sliceDesc) 2 2) 1 1 (fun _ bad _ _ _ _ => bad) = true ∧
    finds (opened true (setk (putWords (hostMap false) 0x4000 (copyDesc.set 1 0x40000100)) 1 0x4000)) 0 1
      (fun _ bad effect _ _ _ => !bad && effect) = true ∧
    (every [(matDesc, 4), (tileDesc, 6)] fun x => finds (opened true (described x.1)) x.2 1
      (fun _ bad effect livein _ _ => !bad && !effect && livein == some 0) = true) ∧
    (every [(copyDesc, 0), (sliceDesc, 1), (rqtDesc, 2), (gatherDesc, 3), (matDesc, 4), (tileDesc, 5), (tileDesc, 6)] fun x =>
      finds (described (x.1.set 0 0x8000000000001FF8)) x.2 1
        (fun _ bad effect livein bounds _ => !bad && !effect && livein.isNone && bounds.isSome) = true) ∧
    (every [(copyDesc, 0), (sliceDesc, 1), (gatherDesc, 3), (tileDesc, 5), (tileDesc, 6)] fun x =>
      finds (described (x.1.set 0 0x5001)) x.2 1
        (fun _ bad effect livein bounds odd => !bad && !effect && livein.isNone && bounds.isNone && odd) = true) ∧
    (every [false, true] fun valid => finds (if valid then namesBar (described copyDesc) else
        tm (described copyDesc) fun t => { t with bars := [] }) 0 0
      (fun u bad effect livein bounds odd => !bad && !effect && livein.isNone && bounds.isNone && !odd &&
        (u.bar u.g.team 0).valid == valid && u.pendingNames 0 == valid) = true) ∧
    32 ≤ (((queued [] (List.replicate 32 tileCmd)).core 0).matQ.filter fun c => c.kind != .tzero && !c.arrived).length ∧
    (described copyDesc).t.type.bars ≤ (1 : BitVec 4).toNat ∧ (described copyDesc).t.type.zslots ≤ (2 : BitVec 5).toNat := by
  decide +kernel

/-- The premises of EngineCompletes for a command about to run its last block. -/
def completes (s : State) (c : Cmd) : Bool :=
  let q := fun (u : State) => (u.core 0).queue c.kind.onMatrix
  decide ((q s).find? (·.id == c.id) = some c) && s.mayRun 0 c && c.done + 1 == c.blocks &&
    okWith (s.blockOf 0 c c.done) fun x =>
      let all := x.2.together 0 c
      (all.filter (·.id == c.id)).length == 1 &&
      (all.all fun y => y.held.isEmpty && if y.id = c.id then y.done + 1 == y.blocks else decide (y.blocks ≤ y.done)) &&
      (q x.2).all fun y => all.all fun z => y.id != z.id || all.contains y

/-- A slice of a collective of two, which has run its one block or is about to. -/
def sliceCmd (id : Nat) (done : Bool) : Cmd :=
  { copyCmd with id, kind := .tcopyC, desc := sliceDesc, slice := id, collid := 1, nslices := 2, bar := some 0, done := b2n done, bytes := b2n done * 32 }

/-- Slices in the copy queue, at a barrier with `arrive` arrivals and `pend` bytes due. -/
def collective (arrive : Nat) (pend : Int) : State :=
  tm (queued [sliceCmd 0 true, sliceCmd 1 false] []) fun t => { t with bars := [(0, (bar arrive pend 2).word)] }

theorem witness_engineCompletes :
    completes (queued [copyCmd] []) copyCmd = true ∧ copyCmd.bar = none ∧
    completes (tm (queued [] [tileCmd]) fun t => t.setSlot 0 (Slot.zeroed {})) tileCmd = true ∧
    (every [(2, 0), (1, 64), (0, 0), (1, 0)] fun x => let s := collective x.1 x.2
      completes s (sliceCmd 1 false) = true ∧ (sliceCmd 1 false).bar = some 0 ∧ (s.bar 0 0).arrive = x.1 ∧
      okWith (s.blockOf 0 (sliceCmd 1 false) 0) (fun y => ((y.2.together 0 (sliceCmd 1 false)).map (·.bytes)).sum + y.1 == 64) = true) := by
  decide +kernel

/-- The premises of `LastBlock`, and accesses to the `n` bytes from each address on that stand at a location. -/
def lastBlock (s : State) (c : Cmd) (reads writes : List (Nat × Nat × Nat)) : Bool :=
  let meets := fun (need : Need) (x : Nat × Nat × Nat) => (List.range x.2.1).all fun i =>
    okWith (s.engineCheck c (plus (BitVec.ofNat 64 x.1) i) need) fun y => y.1.loc == x.2.2 + i && y.2 == s &&
      (need == .read || !s.spadHeld c.team (x.2.2 + i))
  decide (((s.core 0).queue c.kind.onMatrix).filter (·.id == c.id) = [c] ∧ c.done + 1 = c.blocks ∧ c.bar = none ∧ c.region = none ∧
    (c.held = [] ∧ c.fetched = [] ∧ c.carry = [] ∧ c.row = none ∧ c.opA = [] ∧ (c.done = 0 → c.bytes = 0)) ∧
    ((s.group c.issuer).past = [] ∧ (s.group c.issuer).behind = []) ∧ s.limit = none) &&
    s.mayRun 0 c && reads.all (meets .read) && writes.all (meets .write)

theorem witness_dataCopy :
    lastBlock (queued [copyCmd] []) copyCmd [(0x5000, 32, 0x40005000)] [(0x6000, 32, 0x40006000)] = true ∧
    ((copyPlan copyDesc none false false).any fun p => p.rows == 1 && p.cols == 8 && p.sf == 0 && p.df == 0 && p.ssc == 0 && p.dsc == 0) =
      true := by decide +kernel

/-- A requantization about to run its last block. -/
def rqtCmd : Cmd := { copyCmd with kind := .rqt, desc := rqtDesc, done := 31 }

theorem witness_dataRqt :
    lastBlock (queued [rqtCmd] []) rqtCmd ([0, 31].flatMap fun r => [(0x501F + 32 * r, 1, 0x4000501F + 32 * r), (0x7000 + r, 1, 0x40007000 + r)])
      [(0x63E0, 32, 0x400063E0), (0x801F, 1, 0x4000801F)] = true ∧
    ((copyPlan rqtDesc none true false).any fun p => p.rows == 32 && p.cols == 32 && p.sf == 4 && p.df == 4 && p.sst == 32 && p.dstr == 32 &&
      p.src == 0x5000 && p.dst == 0x6000 && p.ssc == 0x7000 && p.dsc == 0x8000) = true := by decide +kernel

/-- A gather of one row. -/
def gatherCmd : Cmd := { copyCmd with kind := .tgath, desc := gatherDesc }

theorem witness_dataGather :
    ((gatherPlan gatherDesc).any fun p => p.count == 1 && p.idx == 4 && p.limit == 4 && p.tst == 64 && p.rowElem == 8) = true ∧
    ([0#8, 3, 4].all fun j => let s := put (queued [gatherCmd] []) 0x7000 [j]
      leNat (s.viewBytes 0 0x40007000 4) == j.toNat &&
      lastBlock s gatherCmd ([(0x7000, 4, 0x40007000)] ++ if j = 4 then [] else [(0x5000 + 64 * j.toNat, 32, 0x40005000 + 64 * j.toNat)])
        [(0x6000, 32, 0x40006000)]) = true := by decide +kernel

/-- A tile command of format `f` about to move its last row, which stands in the scratchpad. -/
def lastRow (kind : CmdKind) (f : Nat) : Cmd :=
  { tileCmd with kind, desc := (tileDesc.set 0 0x8000000000000000).set 1 (at_ f 32 ||| at_ (64 * elemAlign f) 0) }

/-- The premises of EngineData for a tile load and a tile store of format `f`. -/
def rowMeets (f : Nat) : Bool :=
  let n := 64 * elemAlign f
  let row := [(0x8000000000000000 + 63 * n, n, spadBase + 63 * n)]
  let load := lastRow .tload f
  let store := lastRow .tstore f
  let big := fun (c : Cmd) => tm (queued [] [c]) fun t => { t with type := { t.type with spad := 32 } }
  tileFmt load.desc == f && tileStride load.desc == n && lastBlock (big load) load row [] && lastBlock (big store) store [] row

theorem witness_dataTile : (rowMeets 0 && rowMeets 1 && rowMeets 2 && rowMeets 3) = true := by decide +kernel

/-- An MMA of the Single class with this shape. -/
def mmaCmd (e : Word32) : Cmd :=
  { copyCmd with kind := .mma, rung := e, desc := [0x8000000000000000, 0x8000000000001000, 0, 0, 0x0000002000000020, 0, e.setWidth 64, 0] }

theorem witness_dataMma : ([0#32, 0x20000, 0x80000].all fun e =>
    let c := mmaCmd e
    rungFields c.rung == (0, 0, 0, 0, (rungFields e).2.2.2.2) && (rungFields e).2.2.2.2.1 != 1 && dword c.desc 2 == 0 && dword c.desc 3 == 0 &&
    lastBlock (queued [] [c]) c ([0, 63].flatMap fun r =>
      [(0x8000000000000000 + 32 * r, 32, spadBase + 32 * r), (0x8000000000001000 + 32 * r, 32, spadBase + 0x1000 + 32 * r)]) []) = true := by
  decide +kernel

theorem witness_slot : every [0, 1] fun z => let s := roomy base
    z < s.t.type.zslots ∧ s.regionHeld = false ∧ s.slotBusy s.g.team z s.nextCmd = false ∧ s.t.openRegion = none ∧
    (opened true s).slotBusy s.g.team z s.nextCmd = false ∧ (opened true s).regionHeld = false ∧
    (opened true s).t.openRegion = some (region true) ∧ ((opened true s).t.slot z).written = false ∧
    (let b := { queued [] [{ tileCmd with slot := z }] with nextCmd := 1 }
     z < b.t.type.zslots ∧ b.regionHeld = false ∧ b.slotBusy b.g.team z b.nextCmd = true) := by decide +kernel

/-- A second group of the team, in or out of the open region. -/
def twoInRegion (closed : Option Bool) : State :=
  let s := opened true (tm base fun t => { t with type := { t.type with groups := 2 } })
  { s with groups := s.groups.put 1 { idx := 1, port := 1, closed } }

theorem witness_regionClose : (every [none, some false] fun c => let s := twoInRegion c
    s.waitingAt = none ∧ s.t.openRegion = some (region true) ∧ s.g.closed = none ∧ s.g.synced = true ∧ s.t.pending = none ∧
    s.actor ∈ s.partners s.g.team ∧ 1 ∈ s.partners s.g.team ∧ (s.group 1).closed = c) ∧
    (let s := grp (opened false base) fun g => { g with running := true }
     s.waitingAt = none ∧ s.t.openRegion = some (region false) ∧ s.g.closed = none ∧ (region false).spec = false ∧ s.g.synced = false ∧
     s.t.pending = none ∧ s.actor ∈ s.partners s.g.team) ∧
    base.t.openRegion = none ∧ base.t.pending = none ∧ base.g.closed = none ∧ base.waitingAt = none := by decide +kernel

theorem witness_pabort : let s := opened true base
    let t := tm base fun t => { t with openRegion := some { region true with trip := some 1 }, nextRegion := 1 }
    let p := putWords (setk base 1 0x4000) 0x4000 regionDesc
    s.t.openRegion = some (region true) ∧ s.regionHeld = false ∧ s.t.pending = none ∧ s.t.tripped = none ∧ (region true).spec = true ∧
    (region true).canReplay = true ∧ s.actor ∈ s.partners s.g.team ∧ bit s.p.dbg.ctl 1 = false ∧ (region true).rung < 8 ∧
    t.t.tripped ≠ none ∧ t.t.pending = none ∧ t.regionHeld = false ∧ (opened false base).t.openRegion = some (region false) ∧
    (opened false base).regionHeld = false ∧ (region false).spec = false ∧ base.t.openRegion = none ∧ base.t.pending = none ∧
    base.g.closed = none ∧ p.g.getK 1 = 0x4000 ∧ p.g.acqHold = none ∧
    p.check p.g.team 0x4000 8 .read false = .ok (.dev 0x40004000) [] 0 0 := by decide +kernel

/-- A team between an abort and its restart. -/
def aborted (ns : Bool) : State := tm (opened true base) fun t => { t with restart := some ns }

/-- A team whose open region has met a trip, or lacks a line. -/
def tripped (r : Region) : State := tm base fun t => { t with openRegion := some r }

theorem witness_regionEvents : (every [true, false] fun ns => let s := aborted ns;
      (s.team 0).restart = some ns ∧ (s.part 0).halt = none ∧ (s.team 0).openRegion = some (region true) ∧ (s.team 0).phase = .resident ∧
      s.drained ((region true).ckpt.keys.map (0 * 32 + ·)) = true ∧ (s.team 0).pending = none ∧ SMap.rising 0 (region true).ckpt = true ∧
      (SMap.find? (region true).ckpt 0).isSome = true) ∧
    (tm (aborted false) fun t => { t with pending := some { region true with id := 1 } }).t.pending ≠ none ∧
    (let s := pended base;
      (s.team 0).pending = some (region true) ∧ (region true).trip = none ∧ (region true).starved = false ∧
      s.regionDrained 0 (region true) = true ∧ (s.team 0).phase = .resident ∧ (s.part 0).state = .run ∧ (s.part 0).halt = none ∧
      (region true).rsw = none ∧ { region true with rsw := some (.dev 0x40005000) }.rsw ≠ none ∧ bit (s.part 0).dbg.ctl 1 = false) ∧
    (every [({ region true with trip := some 1 }, true), ({ region true with trip := some 2, rung := 1 }, false),
        ({ region true with trip := some 3, replays := 1 }, false)] fun x =>
      ((tripped x.1).team 0).tripped = some x.1 ∧ ((tripped x.1).team 0).phase = .resident ∧ ((tripped x.1).part 0).halt = none ∧
      x.1.trip.isSome = true ∧ x.1.canReplay = x.2 ∧ descTopact x.1.desc = 0) ∧
    (let r := { region true with trip := some 3, replays := 1, desc := [0x5, 0x000102017FFF0000, 0, 0, 0, 0, 0, 0] };
      ((tripped r).team 0).tripped = some r ∧ ((tripped r).part 0).halt = none ∧ r.canReplay = false ∧ descTopact r.desc ≠ 0) ∧
    (let r := { region true with starved := true };
      (every [tripped r, tm (tripped r) fun t => { t with openRegion := none, pending := some r }] fun s =>
        (s.team 0).tripped = none ∧ (s.part 0).halt = none ∧ (s.team 0).phase = .resident ∧
        ((s.team 0).pending = some r ∨ ((s.team 0).pending = none ∧ (s.team 0).openRegion = some r))) ∧
      r.starved = true ∧ r.spec = true) := by
  decide +kernel

/-- An EMPTY task record with counter `n`. -/
def recordAt (n ctl : Word) : State := setk (putWords base 0x4000 [n, 0x5A00000000000000 ||| ctl]) 1 0x4000

theorem witness_tdec : (every [recordAt 1 0, recordAt 0 0, recordAt 1 0x40000, setk base 1 0x4000] fun s =>
      s.plain ∧ s.regionHeld = false ∧ s.g.memHold [s.g.st] = none ∧
      s.check s.g.team (s.g.getK 1) 8 .write false = .ok (.dev 0x40004000) [] 0 0 ∧ s.lockWait 0x40004000 8 true = false) ∧
    (let w := setk (roomy base) 1 0x8000000000000000
     w.plain ∧ w.regionHeld = false ∧ w.g.memHold [w.g.st] = none ∧
      w.check w.g.team 0x8000000000000000 8 .write false = .ok (.spad 0 0) [] 0 0 ∧ (Target.spad 0 0).isWindow = true) ∧
    (every [0x4001#64, 0x40000000] fun a => passes (base.check 0 a 8 .write false) (fun _ => true) = false ∧
      base.check 0 a 8 .write false ≠ .busy) ∧
    (0 - 1 : Word).toInt < 0 ∧ 0 < ((recordAt 3 0).wordAt 0x40004000 - 2).toInt ∧ 0 < ((recordAt 3 0).wordAt 0x40004000).toInt ∧
    (recordAt 1 0).wordAt 0x40004000 - 1 = 0 ∧ field ((putWords (recordAt 1 0) 0x4068 [1]).wordAt (0x40004000 + 0x68)) 0 3 ≠ 0 ∧
    (let h := setk (hostMap true) 1 0x40000100
     (match h.check h.g.team 0x40000100 8 .write false with
      | .ok tgt _ _ _ => tgt.isSystem && !tgt.isWindow && !h.lockWait tgt.loc 8 true
      | _ => false) = true ∧ h.plain ∧ h.regionHeld = false) ∧
    passes ((hostMap false).check 0 0x40000100 8 .write false) (fun tgt => tgt.isNonCoherent && tgt.isSystem) = true ∧
    base.p.state = .run ∧ base.p.halt = none ∧ 0 < (1 : Word).toInt ∧
    (base.g.getK 0 = 0 ∧ (setk base 1 0x4000).byteAt (0x40004000 + 15) ≠ 0x5A) ∧
    (let u := recordAt 1 0;
      0x40004000 % 128 = 0 ∧ 0x40004000 + 128 ≤ hostBase ∧ u.byteAt (0x40004000 + 15) = 0x5A ∧ bit (u.wordAt (0x40004000 + 8)) 18 = false ∧
      u.wordAt 0x40004000 = 1 ∧ field (u.wordAt (0x40004000 + 0x68)) 0 3 = 0 ∧ recordOk (0 :: (u.recordWords 0x40004000).tail) = true ∧
      recKind (u.recordWords 0x40004000) = 0) ∧
    bit ((recordAt 1 0x40000).wordAt (0x40004000 + 8)) 18 = true ∧ ((recordAt 0 0).wordAt 0x40004000).toInt ≤ 0 ∧
    ((recordAt 1 0).wordAt 0x40004000 - 2).toInt < 0 ∧ bit base.p.dbg.ctl 1 = false := by
  decide +kernel

/-- A launch over a range, whose unit 0 has [c, e) left. -/
def launch (c e : Nat) (range finished : Bool) : Launch :=
  { id := 0, record := 0x4000, range, draw := false, ttype := 0, cls := 0, units := 1, next := 1, nextUnit := 1, grain := 4
    ivs := [(0, (c, e))], finished, started := 1 }

/-- The team's launch is in progress. -/
def launched (l : Launch) : State := prt base fun p => { p with launches := [l], nextLaunch := 1 }

theorem witness_taskInstructions : (every [launch 0 4 true false, launch 0 5 true false, launch 4 4 true false, launch 0 4 false false,
      launch 0 4 true true] fun l => (launched l).plain ∧ (launched l).regionHeld = false ∧ (launched l).launchOf (launched l).t = some l) ∧
    (every [(4, 4), (0, 1)] fun x => (launch x.1 x.2 true false).ivs.get (0, 0) base.t.unit = x) ∧
    okWith ((launched (launch 0 4 true false)).agentLoc 0 0x4000 128 .write) (fun x => x.1 == 0x40004000) = true ∧
    (every [0, 7, 8] fun cursor => let l := { launch 0 4 true false with draw := true }
      let s := putWords (launched l) 0x4020 [8, 0, cursor]
      s.plain ∧ s.regionHeld = false ∧ s.launchOf s.t = some l ∧ l.finished = false ∧ l.range = true ∧ l.draw = true ∧
      okWith (s.agentLoc s.g.part l.record 128 .write) (fun x => x.1 == 0x40004000 &&
        (x.2.wordAt (x.1 + 0x30)).toNat == cursor.toNat && (x.2.wordAt (x.1 + 0x20)).toNat == 8) = true) ∧
    ((launched (launch 0 4 true false)).p.queues.get [] 0).contains 0x4000 = false ∧ (6 : BitVec 6).getLsbD 0 = false := by
  decide +kernel

/-- `s` with the control area mapped at 2 GiB, and words in it. -/
def control (s : State) (off : Nat) (ws : List Word) : State :=
  (((s.place (0x1000 + 8 * 511) (wordBytes 8 0x202D)).place (0x2000 + 8 * 511) (wordBytes 8 0x302D)).place (0x3000 + 8 * 511)
    (wordBytes 8 0x8000006F)).place (0xBFF00000 + off) (ws.flatMap (wordBytes 8))

/-- Task type 9: one group of 32 registers, 16 barriers and no scratchpad. -/
def typed (s : State) : State := control s (64 * 9) [0x0001000010000024, 0x1000, 0x2000, 0, 0, 0, 0, 0]

/-- An open batch of `n` entries. -/
def batch (slot n : Nat) (isOpen : Bool) : Batch := { slot, ttype := 9, cls := 2, entries := n, isOpen, order := 0, cluster := 0, since := 0 }

theorem witness_tspawn : (every [[batch 0 254 true], [batch 0 0 true], [], (List.range 15).map fun i => batch i 1 false] fun bs =>
      let s := prt (typed base) fun p => { p with batches := bs }
      s.plain ∧ s.regionHeld = false ∧ s.g.memHold [] = none ∧ field (s.g.getK 5) 57 7 = 0 ∧
      okWith (s.readType 0 9) (fun x => (x.2.agentWrite 0 (ctlAt (0x10000 + 0x1000 * 15 + 16 * 255)) 16 (wordsBytes [0, 0])).toOption.isSome) = true) ∧
    (every [0, 254] fun n => [batch 0 n true].find? (fun y : Batch => y.isOpen && y.ttype == 9 && y.cls == 2) = some (batch 0 n true) ∧
      n + 1 < 256) ∧
    ((List.range 16).find? fun j => !(((List.range 15).map fun i => batch i 1 false).any fun y => y.slot == 0 * 16 + j)) = some 15 := by
  decide +kernel

/-! ## Witnesses: lane words -/

/-- A lane word's fields with nothing set. -/
def fields : LaneFields :=
  { sub := 0, guard := ⟨false, 0⟩, dst := .v 0, a := .v 0, b := .v 0, c := .v 0, ty := 0, rnd := 0, sat := 0, imm := 0 }

/-- The last register of the type's file, for 32 and 64 bits. -/
def lastReg : List (BitVec 4 × Operand) := [(0, .v 31), (1, .v 30)]

theorem witness_laneInteger : every lastReg fun x => let f := { fields with ty := x.1, dst := x.2, a := x.2 }
    base.fileOk f = true ∧
    every [Instr.iadd f, .isub f, .imul f, .imulh f, .imulh { f with sub := 1 }, .imad f, .imin f, .imin { f with sub := 1 }, .imax f,
      .imax { f with sub := 1 }, .iabs f, .laneAnd f, .laneOr f, .laneXor f, .laneNot f, .laneShl f, .laneShr f, .laneSra f, .lanePopc f,
      .laneClz f, .brev f, .iadd { f with sat := 1 }] fun i => i.wf = true := by decide +kernel

theorem witness_laneMove : (every lastReg fun x => let f := { fields with ty := x.1, dst := x.2, a := x.2 }
    base.fileOk f = true ∧ every [Instr.bfe { f with imm := 0x11F, sub := 1 }, .bfe { f with imm := 0x2000 }, .bfi { f with imm := 0x11F },
      .bfi { f with imm := 0x2000 }, .iset { f with sub := 7 }, .iset f, .laneSel f, .mov f] fun i => i.wf = true) ∧
    (Instr.bfe { fields with ty := 1, imm := 0x13F }).wf = true ∧ (Instr.bfe { fields with ty := 1, imm := 0x4000 }).wf = true ∧
    (Instr.mov { fields with ty := 2, dst := .v 28, a := .v 28 }).wf = true ∧ base.fileOk { fields with ty := 2, dst := .v 28 } = true ∧
    (every [(0#4, 31#8), (1, 30)] fun x => (Instr.movi { fields with sub := x.1, dst := .v x.2 }).wf = true ∧
      base.fileOk { fields with sub := x.1, dst := .v x.2 } = true) := by decide +kernel

theorem witness_laneFloat : (every [(0#4, Operand.v 31), (1, .v 30), (2, .v 31), (3, .v 31)] fun x =>
      let f := { fields with ty := x.1, dst := x.2, a := x.2, rnd := 7 }
      base.fileOk f = true ∧ every [Instr.fadd f, .fsub f, .fmul f, .ffma f, .frnd f, .fmin f, .fmax f, .fset { f with sub := 7 }, .fclass f]
        fun i => i.wf = true) ∧
    (every lastReg fun x => let f := { fields with ty := x.1, dst := x.2, a := x.2, rnd := 4 };
      every [Instr.frcp f, .frsq f, .fsqrt f] fun i => i.wf = true) ∧
    (every [Instr.fexp2 fields, .flog2 fields, .ftanh fields, .fsin fields, .fcos fields] fun i => i.wf = true) ∧
    base.g.lfmt.extractLsb' 6 6 = 0#6 ∧ ofInt 1 0 ≠ .nan ∧ ofInt 2 0 ≠ .nan ∧ fcmp (ofInt 1 0) (ofInt 2 0) < 0 := by decide +kernel

/-- The row of FP16. -/
def half : FmtRow := ⟨2, 5, 15, 10, 15, 2 ^ 11 - 1, 0x7E00⟩

/-- A magnitude that rounds above the largest finite FP16 number, in each mode at its boundary. -/
theorem witness_over : half ∈ fmtRows ∧ half.over 0 false (FVal.fin false 4095 4).mag ∧ half.over 4 true (FVal.fin true 4095 4).mag ∧
    half.over 1 false (FVal.fin false 4096 4).mag ∧ half.over 2 true (FVal.fin true 4096 4).mag ∧
    half.over 2 false (FVal.fin false 65505 0).mag ∧ half.over 3 true (FVal.fin true 65505 0).mag := by
  have h : half.max + half.ulp / 2 ≤ 65520 ∧ half.max + half.ulp ≤ 65536 ∧ half.max < 65505 ∧ (FVal.fin false 4095 4).mag = 65520 ∧
    (FVal.fin false 4096 4).mag = 65536 ∧ (FVal.fin false 65505 0).mag = 65505 := by decide +kernel
  obtain ⟨h1, h2, h3, e1, e2, e3⟩ := h
  exact ⟨by simp [fmtRows, half], e1 ▸ h1, e1 ▸ h1, e2 ▸ h2, e2 ▸ h2, e3 ▸ h3, e3 ▸ h3⟩

/-- One that does not. -/
theorem witness_under : ¬half.over 0 false (FVal.fin false 65519 0).mag ∧ ¬half.over 4 true (FVal.fin false 65519 0).mag ∧
    ¬half.over 1 false (FVal.fin false 65535 0).mag ∧ ¬half.over 2 false (FVal.fin false 65504 0).mag := by
  have h : ¬half.max + half.ulp / 2 ≤ (FVal.fin false 65519 0).mag ∧ ¬half.max + half.ulp ≤ (FVal.fin false 65535 0).mag ∧
    ¬half.max < (FVal.fin false 65504 0).mag := by decide +kernel
  exact ⟨h.1, h.1, h.2.1, h.2.2⟩

/-- Specials and ordinary encodings, and a magnitude that FMT[3] flushes. -/
theorem witness_rounding : (0x7C00 % 2 ^ 15 / 2 ^ 10 = 2 ^ 5 - 1 ∧ 0x7BFF % 2 ^ 15 / 2 ^ 10 ≠ 2 ^ 5 - 1) ∧
    half.bias = 15 ∧ ((0x3FF : Rat) * 2 ^ (-24 : Int) < 2 ^ (1 - (15 : Int))) ∧
    (every [2, 4, 5, 6] fun c => (fmtRows.any fun r => r.code == c) = true) := by decide +kernel

theorem witness_quantise :
    let xs := [FVal.fin false 3 0, .fin true 0 0]
    (every [(4, (8 : Int)), (9, 6)] fun x => x ∈ [(4, 8), (5, 15), (6, 2), (7, 4), (8, 2), (9, (6 : Int))]) ∧ xs ≠ [] ∧
    (∀ x, x ∈ xs → x.mag ≤ (FVal.fin false 3 0).mag) ∧ (2 : Rat) ^ (1 : Int) ≤ (FVal.fin false 3 0).mag ∧
    (FVal.fin false 3 0).mag < (2 : Rat) ^ (1 + 1 : Int) ∧ FVal.fin false 3 0 ∈ xs ∧ (∀ n m e, FVal.nan ≠ .fin n m e) := by
  refine ⟨by decide +kernel, by decide, by decide +kernel, by decide +kernel, by decide +kernel, by decide, by simp⟩

theorem witness_laneConversion : base.g.lfmt.extractLsb' 6 6 = 0#6 ∧
    (every [Instr.cvt { fields with ty := 1 }, .cvt { fields with ty := 0xE }, .cvt { fields with sub := 0xE }, .cvti { fields with ty := 0xA },
      .cvti { fields with ty := 0xD }, .cvti { fields with sub := 0xA }, .pack { fields with ty := 2 }, .pack { fields with ty := 3 },
      .unpk { fields with ty := 2 }, .unpk { fields with sub := 1, ty := 3 }, .mxq { fields with ty := 4 }, .mxq { fields with ty := 9 },
      .tagq fields, .tagg fields, .tagm { fields with ty := 1 }, .tags { fields with ty := 3 }] fun i => i.wf = true) ∧
    base.fileOk fields = true ∧ base.g.tagsLanes fields = 0 := by decide +kernel

/-- The lanes of a word whose tag, at most `cap`, lies below the threshold. -/
def below (s : State) (f : LaneFields) (cap : Nat) (out : Nat → LaneOut) : Word32 :=
  maskOf fun j => lane (s.g.active f.guard) j && !lane s.g.helpers j && decide (min (out j).tag cap < (s.g.lfmt.extractLsb' 6 6).toNat)

theorem witness_significance : every [(1#32, Operand.v 0, true), (63, .v 0, true), (24, .one, false), (25, .one, true)] fun x =>
    let s := grp base fun g => { g with lfmt := x.1 * 64 }
    let f := { fields with a := x.2.1, b := x.2.1 }
    let g := s.g
    s.fileOk f = true ∧ g.inHandler = false ∧ g.tx.active = 0 ∧ (g.lfmt.extractLsb' 6 6).toNat ≠ 0 ∧
    (x.2.1 = .one → every [false, true] fun max => below s { f with b := .zero } 24 (s.minLane { f with b := .zero } max) ≠ 0 ↔ x.2.2 = true) ∧
    (every [(below s f 63 fun j => g.floatLane f [f.a, f.b] j fun F xs =>
          sumElem F (fmtBits g.lfmt) (g.mode f) (tval xs 0) (tval xs 1)),
        (below s f 63 fun i => { bits := 0, tag := (g.convertTo fp32 (g.mode f) (g.cvtSource f f.a i 0)).2 }),
        (below s f 63 fun _ => { bits := 0, tag := (g.redOp f (g.redSrc f 0) (g.redSrc f 1)).2 })] fun m => m ≠ 0 ↔ x.2.2 = true) := by
  decide +kernel

theorem witness_checked : let g := fun t : BitVec 4 => { fields with ty := t }
    (every [Instr.fadd fields, .fsub fields, .fmul fields, .ffma fields, .frcp fields, .frsq fields, .fsqrt fields, .frnd fields,
      .fexp2 fields, .flog2 fields, .ftanh fields, .fsin fields, .fcos fields, .fmin fields, .fmax fields, .cvt (g 1),
      .cvti { fields with sub := 0xA }, .pack (g 2), .unpk (g 2), .mxq (g 4), .qred fields, .gred fields, .gscan fields] fun i => i.wf = true) ∧
    (g 1).ty ≠ 0xE ∧ fields.ty.toNat < 0xA ∧ (g 4).ty ≠ 9 ∧ fields.sub.toNat % 8 = 0 := by decide +kernel

/-- A mask-stack entry. -/
def entry (k : MaskKind) (pend : Word32) : MaskEntry := { fmt := 0, kind := k, head := 1, pend, outer := 0xFFFFFFFF }

/-- A lane stream in a block with this stack. -/
def masked (st : List MaskEntry) (cur : Word32) : State := grp base fun g => { g with running := true, stack := st, cur }

theorem witness_laneFlow : base.fileOk fields = true ∧ (Instr.laneIf { fields with imm := 0x00070004 }).wf = true ∧
    (Instr.laneIf { fields with imm := 0x00070005 }).wf = true ∧
    ((base.g.lfmt &&& ~~~7#32) ||| (0x00070004 &&& 7)).toNat % 8 ≤ 4 ∧ ¬((base.g.lfmt &&& ~~~7#32) ||| (0x00070005 &&& 7)).toNat % 8 ≤ 4 ∧
    (masked (List.replicate 31 (entry .loop 0)) 1).g.stack.length < 32 ∧ 32 ≤ (masked (List.replicate 32 (entry .loop 0)) 1).g.stack.length ∧
    (every [MaskKind.ifThen, .ifElse, .loop] fun k => (masked [entry k 0] 1).g.stack = entry k 0 :: [] ∧ (entry k 0).kind = k) ∧
    base.g.stack = [] ∧ base.g.tx.depth = 0 ∧ (grp base fun g => { g with lpc := 0x1FFFE }).g.lpc + 1 < 2 ^ 17 ∧
    (∀ y, y ∈ [entry .ifThen 3, entry .ifElse 3] → y.kind ≠ .loop) ∧
    (masked ([entry .ifThen 3, entry .ifElse 3] ++ entry .loop 0 :: []) 1).g.stack = [entry .ifThen 3, entry .ifElse 3] ++ entry .loop 0 :: [] ∧
    (let s := grp (masked [entry .loop 0] 3) fun g => { g with tx := { g.tx with depth := 1, active := 3, base := 1 } }
     s.g.tx.depth ≠ 0 ∧ s.g.cur &&& s.g.tx.active ≠ 0 ∧ ([] : List MaskEntry).length < s.g.tx.base) ∧
    (masked [entry .loop 1] 0).g.cur ||| (entry .loop 1).pend ≠ 0 ∧ (masked [entry .loop 0] 0).g.cur ||| (entry .loop 0).pend = 0 := by
  decide +kernel

theorem witness_laneEnds : base.g.tx.depth = 0 ∧ base.g.tx.active = 0 ∧ base.g.tx.rejoin = 0 ∧ base.g.tx.serial = false ∧ base.g.inHandler = false ∧
    (let s := grp (masked [] 1) inTrap; s.g.inHandler = true ∧ s.g.trapSlot ≠ none ∧ s.g.live &&& ~~~s.g.cur ≠ 0) ∧
    (masked [] 1).g.live &&& ~~~(masked [] 1).g.cur ≠ 0 ∧ base.g.live &&& ~~~base.g.cur = 0 ∧ (masked [entry .loop 0] 1).g.stack ≠ [] ∧
    (grp base fun g => { g with cq := List.replicate 15 0 }).g.cq.length < 16 ∧ 16 ≤ (grp base fun g => { g with cq := List.replicate 16 0 }).g.cq.length ∧
    lowestLane (base.g.cur &&& base.g.guardMask ⟨false, 0⟩) = some 0 ∧
    lowestLane ((masked [] 0x80000000).g.cur &&& base.g.guardMask ⟨false, 0⟩) = some 31 ∧
    lowestLane (base.g.cur &&& base.g.guardMask ⟨true, 0⟩) = none := by decide +kernel

theorem witness_mask : base.fileOk fields = true ∧ (every [1#4, 2] fun n => (Instr.vote { fields with sub := n }).wf = true) := by decide +kernel

theorem witness_crossLane : base.g.lfmt.extractLsb' 6 6 = 0#6 ∧ (every lastReg fun x => let f := { fields with ty := x.1, dst := x.2, a := x.2 }
    base.fileOk f = true ∧ every [Instr.shfl f, .shfl { f with sub := 3 }, .qswp f, .qswp { f with sub := 2 }, .qred f, .qred { f with sub := 7 },
      .gred f, .gred { f with sub := 7 }, .gscan { f with sub := 7 }, .gscan { f with sub := 15 }] fun i => i.wf = true) := by
  decide +kernel

/-- Lanes whose a0 is 0x4000, with the tag address in a1. -/
def pointed (cur : Word32) : State := grp base fun g => { g with a := [(0, 0x4000), (1, 0x5000)], cur, running := true }

/-- A word of `2 ^ n` bytes at a0, with its tag at a1. -/
def memFields (n : BitVec 4) : LaneFields := { fields with sub := n, dst := .v 28, a := .a 0, b := .a 1 }

/-- The same in the non-coherent window of the host. -/
def pointedHost : State := grp (hostMap false) fun g => { g with a := [(0, 0x40000100), (1, 0x40000800)], cur := 3, running := true }

theorem witness_laneLoad : every [0#4, 4] fun n => every [pointed 3, pointedHost, pointed 0] fun s => let f := memFields n
    s.mid = [] ∧ s.limit = none ∧ s.fileOk f = true ∧ s.g.tx.active = 0 ∧ s.g.tx.rejoin = 0 ∧
    every [s.g.oneAccess f, s.g.twoAccesses f] fun acc => let r := s.planLanes (s.g.active f.guard) loadKind acc
      s.laneHold (s.g.active f.guard) true acc = none ∧ r.1.fails = [] ∧ r.1.aborts = [] ∧ r.1.zero = [] ∧ r.1.busy = false ∧
      s.lanesWait f loadKind r.1.items = false ∧ (s.g.cur ≠ 0 → r.1.items ≠ []) ∧
      every r.1.items fun y => y.idx = 1 → leNat (r.2.viewBytes s.g.team y.target.loc (itemBytes f y)) < 64 ∧
        (y.target.isNonCoherent = true → r.2.pkg.posted = []) := by
  decide +kernel

/-- Each store of a word still meets its translation after the stores before it. -/
def steady (s : State) (f : LaneFields) (acc : Nat → List LaneAccess) (bytes : Nat → List (List Byte)) : Bool :=
  let r := s.planLanes (s.g.active f.guard &&& ~~~s.g.helpers) storeKind acc
  let held := r.1.items.foldl (fun (w : State) y => w.holdLine s.g.part y.target true) r.2
  r.1.items.zipIdx.all fun z =>
    let w := (r.1.items.take z.2).foldl (fun (w : State) y => w.groupStore y.target s.g.seq ((bytes y.lane).getD y.idx [])) held
    passes (w.check s.g.team z.1.addr (itemBytes f z.1) .write false) fun t => t == z.1.target

theorem witness_laneStore : every [0#4, 4] fun n => every [pointed 3, pointedHost] fun s => let f := memFields n
    let x := s.g.active f.guard &&& ~~~s.g.helpers
    s.mid = [] ∧ s.limit = none ∧ s.fileOk f = true ∧ s.g.tx.active = 0 ∧ s.g.tx.rejoin = 0 ∧ s.plain ∧
    steady s f (s.g.oneAccess f) (fun i => [leBytes (memBytes f) (s.g.memSrc f f.b i)]) = true ∧
    steady s f (s.g.twoAccesses f) (fun i =>
      [leBytes (memBytes f) (s.g.memSrc f f.c i), [BitVec.ofNat 8 ((s.g.storedTag f.c i).getD 0).toNat]]) = true ∧
    every [s.g.oneAccess f, s.g.twoAccesses f] fun acc => let r := s.planLanes x storeKind acc
      s.laneHold x false acc = none ∧ r.1.fails = [] ∧ r.1.aborts = [] ∧ r.1.zero = [] ∧ r.1.busy = false ∧ r.1.ok.length = 2 ∧
      s.lanesWait f storeKind r.1.items = false := by decide +kernel

/-- Lanes of `x` with an open transaction. -/
def inTx (x : Word32) (s : State) : State := grp s fun g => { g with tx := { g.tx with depth := 1, active := x } }

theorem witness_laneStoreTx : let s := inTx 3 (pointed 3)
    let f := memFields 2
    let x := s.g.active f.guard &&& ~~~s.g.helpers
    let r := s.planLanes x storeKind (s.g.oneAccess f)
    s.mid = [] ∧ s.limit = none ∧ s.lanesWait f storeKind r.1.items = false ∧
    s.fileOk f = true ∧ s.laneHold x false (s.g.oneAccess f) = none ∧ r.1.fails = [] ∧ r.1.busy = false ∧ s.g.tx.serial = false ∧ s.plain ∧
    r.1.ok.length = 2 ∧ r.1.aborts = [] ∧ (r.1.ok.map (·.1)).Nodup ∧
    every r.1.ok fun y => lane s.g.tx.active y.1 = true ∧ lane r.2.g.tx.active y.1 = true ∧ every y.2 fun z => z.2 = .dev z.2.loc := by
  decide +kernel

/-- The premises of LaneAtomicResults: these lanes name one address, whose target is `tgt`. -/
def atomicFits (s : State) (f : LaneFields) (loads nc : Bool) (js : List Nat) (a : Word) (tgt : Target) : Bool :=
  let x := s.g.active f.guard &&& ~~~s.g.helpers
  let r := s.planLanes x (atomicKind loads nc) (s.g.oneAccess f)
  decide (s.mid = [] ∧ s.limit = none ∧ s.fileOk f = true ∧ s.g.tx.active = 0 ∧ s.plain ∧
    s.laneHold x loads (s.g.oneAccess f) = none ∧ r.1.fails = [] ∧ r.1.aborts = [] ∧ r.1.zero = [] ∧ r.1.busy = false ∧
    r.1.ok = js.map (fun j => (j, [(a, tgt)])) ∧ s.lanesWait f (atomicKind loads nc) r.1.items = false ∧
    passes ((js.foldl (fun (w : State) _ => w.holdLine s.g.part tgt true) r.2).check s.g.team a (memBytes f) .write nc)
      (fun t => t == tgt) = true)

theorem witness_laneAtomic :
    (every [([31], 0x80000000#32, 0), ([31], 0x80000000, 2), ([0, 1, 31], 0x80000003, 0), ([0, 1, 31], 0x80000003, 9)] fun x =>
      every [true, false] fun ret =>
        let f := if ret then { memFields 2 with ty := x.2.2 } else { memFields 10 with ty := x.2.2, dst := .v 0 }
        (ret = !f.sub.getLsbD 3) ∧ (Instr.atom f).wf = true ∧
        atomicFits (pointed x.2.1) f ret (f.ty.toNat != 0 && f.ty.toNat != 1) x.1 0x4000 (.dev 0x40004000) = true) ∧
    (every [([0], 1#32, 1), ([0, 1], 3, 0)] fun x => every [true, false] fun ret =>
      let f := if ret then { memFields 2 with ty := x.2.2 } else { memFields 10 with ty := x.2.2, dst := .v 0 }
      atomicFits (grp pointedHost fun g => { g with cur := x.2.1 }) f ret false x.1 0x40000100 (hostAt 0x100 false) = true) ∧
    (hostAt 0x100 false).isNonCoherent = true ∧ (Target.dev 0x40004000).isNonCoherent = false ∧
    (let s := pointed 0x80000000
     let f := { memFields 2 with c := .a 1 }
     atomicFits s f true false [31] 0x4000 (.dev 0x40004000) = true ∧
      leNat (s.viewBytes s.g.team 0x40004000 4) ≠ s.g.memSrc f f.b 31 ∧ leNat (s.viewBytes s.g.team 0x40004000 4) = s.g.memSrc f .zero 31 ∧
      ((lanesOf (s.g.active f.guard)).foldl (fun (r : Option State) i => r.bind fun s => s.prefLane (s.g.memAddr f i)) (some s)).isSome = true) := by
  decide +kernel

theorem witness_transaction : base.fileOk fields = true ∧ base.plain ∧ base.g.tx.depth = 0 ∧ base.mid = [] ∧ base.limit = none ∧
    bit base.p.dbg.ctl 1 = false ∧ ¬(opened true base).plain ∧
    (let s := prt (inTx 1 base) fun p => { p with serialHolder := some 0 }
     let s := grp s fun g => { g with tx := { g.tx with serial := true } }
     s.g.tx.depth = 1 ∧ s.g.stack.length = s.g.tx.base ∧ s.g.lpc = s.g.tx.tgt.toNat ∧ s.g.tx.serial = true ∧
      s.p.serialHolder = some s.actor) ∧
    (every [2, 7] fun n => 2 ≤ (grp base fun g => { g with tx := { g.tx with depth := n } }).g.tx.depth) ∧
    (every [1, 6] fun n => 0 < n ∧ n < 7) ∧ (grp base fun g => { g with tx := { g.tx with depth := 7 } }).g.tx.depth = 7 ∧
    (masked [] 0).g.cur = 0 ∧ (masked [] 0).g.tx.depth = 0 ∧ (masked [] 0).plain ∧ lowestLane base.g.cur = some 0 ∧
    base.actor ∉ base.p.serialQ ∧
    (let s := inTx 0 base;
      s.g.tx.depth = 1 ∧ 0 < s.g.tx.depth ∧ s.g.tx.serial = false ∧ s.g.tx.active = 0 ∧ s.g.stack.length = s.g.tx.base ∧ s.g.lpc = s.g.tx.tgt.toNat) ∧
    (Instr.xstat fields).wf = true := by decide +kernel

/-- A logged write of granule 0x40004000. -/
def logged : LogEntry := { granule := 0x40004000, bytes := [1, 2, 3, 4, 5, 6, 7, 8], mask := 0x0F }

theorem witness_commit : every [0, 31] fun i =>
    let s := grp base fun g => { g with tx := { g.tx with depth := 1, active := laneBit i, writes := [(i, [logged])],
                                                           reads := [(i, [{ logged with bytes := List.replicate 8 0 }])] } }
    s.g.tx.depth = 1 ∧ s.g.tx.serial = false ∧ i < 32 ∧ s.g.tx.active = laneBit i ∧ s.g.stack.length = s.g.tx.base ∧
    s.g.lpc = s.g.tx.tgt.toNat ∧ s.p.serialHolder = none ∧ s.mid = [] ∧ s.limit = none ∧ bit s.p.dbg.ctl 1 = false ∧ s.g.writeLog i = [logged] ∧ logged.bytes.length = 8 ∧
    every (s.g.readLog i) fun y => s.bytesAt y.granule 8 = y.bytes := by decide +kernel

theorem witness_tileFragment : every [0, 1] fun z => z < (roomy base).t.type.zslots ∧ (roomy base).t.openRegion = none ∧
    (roomy base).fileOk { fields with dst := .v 24, imm := 0xF01 } = true ∧ (Operand.v 24).isBase 8 = true := by decide +kernel

/-! ## Witnesses: machine events -/

/-- `n` failing rows of one bank. -/
def rows (n : Nat) : List (Nat × Nat × Nat) := (List.range n).map fun i => (0, 0, i)

theorem witness_power : (every [0, 255] fun core => core < 256 ∧ State.reset.pkg.recovery = false ∧
      core ∉ (State.reset.bistDie (dieOf core)).finished) ∧
    4 < ((rows 5).filter fun x => x.1 == 0 && x.2.1 == 0).length ∧ ((rows 4).filter fun x => x.1 == 0 && x.2.1 == 0).length ≤ 4 := by
  decide +kernel

/-- Links 0 and 4 with two modules and one up, and a host line held, dirty or clean. -/
def linked (dirty : Bool) : State :=
  prt (pkg base fun p => { p with links := [(0, 2), (4, 1)], hostHeld := [(3, { dirty, parts := [0] })] })
    fun p => { p with queues := [(0, [0x4000])] }

theorem witness_links : let s := linked false
    1 < s.pkg.modules 0 ∧ s.pkg.modules 4 = 1 ∧ (s.part 0).state ≠ .free ∧ (s.part 0).state = .run ∧ s.pkg.hostUp = true ∧
    (SMap.find? s.pkg.hostHeld 3).isSome = true ∧ SMap.find? s.pkg.hostHeld 4 = none ∧ (every s.pkg.hostHeld fun x => x.2.dirty = false) ∧
    (SMap.find? (linked true).pkg.hostHeld 3).isSome = true ∧ (pkg s fun p => { p with hostUp := false }).pkg.hostUp = false ∧
    (s.team (s.group 0).team).phase = .resident ∧ (s.group 0).retired = false ∧ 0 < ((s.part 0).queues.get [] 0).length := by decide +kernel

theorem witness_spdm : (every [0, 1, 2, 3] fun n => (pkg base fun p => { p with spdmStage := n }).pkg.spdmStage = n) ∧ base.pkg.attest = true ∧
    (pkg base fun p => { p with spdmStage := 3, attest := false }).pkg.attest = false ∧ (5 ≤ 5 ∧ 5 ≠ 0xFF) ∧ 5 ≤ 0xFE ∧ 5 ≤ 0x100 := by
  decide +kernel

theorem witness_spdmLength : 0 ≤ (Config.certificateChain 0).length := Nat.zero_le _

/-- Partition 0 in another state. -/
def parted (x : PartState) (s : State) : State := prt s fun p => { p with state := x }

theorem witness_hostRegisters : let s := base
    s.pkg.hostUp = true ∧ s.pkg.recovery = false ∧
    (every [(0x20, 8), (0x27, 1), (0x10FF8, 8), (0x18000, 4)] fun x => accessOk x.1 x.2 = true ∧ s.regReach 0 (regAt 0 x.1).1 = true) ∧
    ((regAt 0 0x27).1 = .apex 0x20 ∧ 7 < (regAt 0 0x27).2 + 1) ∧ ¬(accessOk 0x21 8 = true) ∧ ¬(s.regReach 1 (regAt 1 0x10000).1 = true) ∧
    (every [(0x10008, 0#64), (0x10008, 5), (0x18008, 6)] fun x => (regAt 0 x.1).1.ownRow 0 (regAt 0 x.1).2 8 x.2 = false) ∧
    s.owns 0 0 = true ∧ (parted .config s).owns 0 0 = true ∧ 0 ≤ (0 : Word).toInt ∧ (0x8000000000000000 : Word).toInt < 0 ∧ (1 : Nat) ≠ 0 := by
  decide +kernel

theorem witness_isolation : base.owns 1 0 = false ∧ (1 : Nat) ≠ 0 ∧
    (every [0x10000, 0x10FFF] fun off => 0x10000 ≤ off ∧ off < 0x11000 ∧ accessOk off 1 = true) ∧ base.pkg.hostUp = true ∧
    base.pkg.recovery = false ∧ 0 + 1 = 1 ∧ (every [0, 4096] fun len => len ≤ 4096) ∧ (List.replicate 512 (0 : Byte)).length ≤ 512 := by
  decide +kernel

/-- Without engine commands no command stands in another partition than its team. -/
theorem no_commands {l : SMap Core} (h : l.all (fun x => x.2.copyQ.isEmpty && x.2.matQ.isEmpty) = true) (c : Nat) (matrix : Bool) :
    (SMap.get {} l c).queue matrix = [] := by
  induction l with
  | nil => cases matrix <;> rfl
  | cons x xs ih =>
    simp only [List.all_cons, Bool.and_eq_true, List.isEmpty_iff] at h
    simp only [SMap.get]
    split
    · cases matrix <;> simp [Core.queue, h.1]
    · exact ih (by simpa using h.2)

theorem witness_owned : Owned State.reset ∧ Owned base := by
  refine ⟨⟨by decide +kernel, by decide +kernel, by decide +kernel, fun c m x hx => ?_⟩,
    ⟨by decide +kernel, by decide +kernel, by decide +kernel, fun c m x hx => ?_⟩⟩
  all_goals
    rw [State.core, no_commands (by decide +kernel)] at hx
    exact absurd hx (by simp)

/-- All dies tested, all links up, and the control area mapped. -/
def ready : State :=
  pkg (control base 0 []) fun p => { p with
    bist := (List.range 4).map fun d => (d, { finished := List.range 64 }), links := (List.range 8).map fun l => (l, 1) }

/-- An operand of START as the control area holds it. -/
def reads (s : State) (off : Nat) (w : Word) : Bool := okWith (s.agentWord 0 (ctlAt off)) fun x => x.1 == w

/-- Partition 0 in CONFIG, able to start, with these words for RESV and NETID. -/
def starts (resv netid : Word) : State :=
  parted .config (control (pkg (typed base) fun _ => ready.pkg) 0x4200 [resv, netid])

/-- What the identity of `starts` is read as, and the state in which its conditions are met. -/
def identified (resv netid : Word) (p : State → Bool) : Bool :=
  let c := starts resv netid
  c.commands 0 0 && c.startable 0 && okWith (c.identity 0) fun x => x.1 == (resv, netid) && p x.2

/-- The agent's failure. -/
def failsWith {α : Type} : Except AgentStop α → Bool
  | .error (.fail _ _) => true
  | _ => false

theorem witness_commands :
    ready.pkg.hostUp = true ∧ (starts 0 0).pkg.hostUp = true ∧ ready.commands 0 8 = false ∧ (parted .free ready).commands 0 0 = true ∧
    (parted .free ready).pkg.hostUp = true ∧
    ((parted .free ready).part 0).state = .free ∧ (every (List.range 4) fun d => (parted .free ready).bistDone d = true) ∧
    (ready.part 0).state = .run ∧ ready.commands 0 0 = true ∧ base.bistDone 3 = false ∧ ((parted .config ready).part 0).state = .config ∧
    ((parted .halted ready).part 0).state = .halted ∧ ready.startable 0 = false ∧
    (let c := parted .config (pkg base fun _ => ready.pkg); c.commands 0 0 && c.startable 0 && failsWith (c.identity 0)) = true ∧
    identified 0 (at_ 1 36) (fun u => !u.identityOk 0 0 (at_ 1 36)) = true ∧
    identified 0 0x1000002 (fun u => u.identityOk 0 0 0x1000002 && !bit (0 : Word) 8) = true ∧
    identified 0x109 0 (fun u => u.identityOk 0 0x109 0 && bit (0x109 : Word) 8 &&
      okWith (((u.noteCmd 0 2).enterRun 0 0x109 0).readType 0 (field (0x109 : Word) 0 8)) fun _ => true) = true ∧
    identified 0x101 0 (fun u => u.identityOk 0 0x101 0 && bit (0x101 : Word) 8 &&
      failsWith (((u.noteCmd 0 2).enterRun 0 0x101 0).readType 0 (field (0x101 : Word) 0 8))) = true := by decide +kernel

/-- A START in which the class blocks are written, and its type entry is read or not. -/
def startWrites (resv : Word) (read : Bool) : Bool :=
  identified resv 0 fun u => okWith (State.writeClasses 0 ((u.noteCmd 0 2).enterRun 0 resv 0) (List.range 8)) fun y =>
    okWith (y.readType 0 (field resv 0 8)) (fun _ => true) == read

theorem witness_startBlocks : startWrites 0x109 true = true := by decide +kernel

theorem witness_startUnread : startWrites 0x101 false = true := by decide +kernel

theorem witness_startUnwritten : let c := (starts 0 0).place (0x3000 + 8 * 511) (wordBytes 8 0x8000006B)
    okWith (c.identity 0) (fun x => failsWith (State.writeClasses 0 ((x.2.noteCmd 0 2).enterRun 0 x.1.1 x.1.2) (List.range 8))) = true := by
  decide +kernel

theorem witness_destroys : (every [parted .config ready, parted .halted ready, parted .halted (tm ready fun t => { t with phase := .done })] fun s =>
    (State.destroyTeams (s.noteCmd 0 4) ((s.teams.filter fun x => x.2.part == 0).map (·.1))).isSome = true) := by decide +kernel

/-- An aperture of three words: one names the counter at 0x4000, one nothing, and one has a reserved bit. -/
def aperture : State :=
  prt (putWords base 0x5000 [0x4000, 0, 0x4001]) fun p => { p with page := { p.page with capMap := 0x5000, capLen := 3 } }

/-- The word at 0x4000 is a counter at `n` of an EMPTY record. -/
def counting (n : Word) (s : State) : State := putWords s 0x4000 [n, 0x5A00000000000000]

theorem witness_window : base.pkg.hostUp = true ∧ base.pkg.recovery = false ∧ base.owns 0 0 = true ∧
    (every [0x4000, 0x4FFD] fun off => barAt 0 off (2 ^ 36) = (0, off) ∧ off < 2 ^ 36 ∧
      okWith (State.windowParts 0 .write (3 / 8 + 2) base ((base.part 0).windowAddr off) 3) (fun x => !x.1.isEmpty) = true ∧
      okWith (State.windowParts 0 .read (8 / 8 + 2) base ((base.part 0).windowAddr off) 8) (fun x => !x.1.isEmpty) = true ∧
      okWith (State.windowParts 0 .read (0 / 8 + 2) base ((base.part 0).windowAddr off) 0) (fun _ => true) = true) ∧
    (every [([(0x40004000, 8)], 0x4000, 8), ([(0x40004FFD, 3), (0x40005000, 8), (0x40005008, 1)], 0x4FFD, 12)] fun x =>
      okWith (State.windowParts 0 .write (x.2.2 / 8 + 2) base ((base.part 0).windowAddr x.2.1) x.2.2) (fun y => y.1 == x.1) = true) ∧
    okWith (State.windowParts 0 .write (512 / 8 + 2) base ((base.part 0).windowAddr 0x4000) 512) (fun x => x.1.length == 64) = true ∧
    (match State.windowParts 0 .write (8 / 8 + 2) base ((base.part 0).windowAddr (2 ^ 36 - 8)) 8 with
      | .error (.fail _ _) => true
      | _ => false) = true := by decide +kernel

/-- A window write of twelve bytes with these parts still to be performed is under way. -/
def moving (todo : List (Nat × Nat)) : State := prt base fun p => { p with
  winMoves := [{ addr := 0x4FFD, data := some ((List.range 12).map (BitVec.ofNat 8)), todo, fin := .window }] }

theorem witness_windowTurn :
    (let s := { base with limit := some 0 }
     s.limit = some 0 ∧ every [(0x4000, 1), (0x4FFD, 12), (0x4000, 512)] fun x =>
      okWith (State.windowParts 0 .write (x.2 / 8 + 2) s ((s.part 0).windowAddr x.1) x.2) (fun _ => true) = true) ∧
    every [(0, 1, [(1, 1)]), (11, 1, [])] fun x => every [moving ((x.1, x.2.1) :: x.2.2)] fun s =>
      every (s.part 0).winMoves fun m => [m] = (s.part 0).winMoves ∧ m.fin = .window ∧ m.todo = (x.1, x.2.1) :: x.2.2 ∧
        (match s.agentAccess 0 (m.addr + BitVec.ofNat 64 x.1).toNat 1 .write with
          | .ok (_, .dev _, _) => true
          | _ => false) = true := by decide +kernel

theorem witness_aperture : let s := aperture
    s.pkg.hostUp = true ∧ s.pkg.recovery = false ∧ s.owns 0 0 = true ∧
    (every [0, 8, 16, 0x7FFF8] fun off => barAt 0 off (2 ^ 20) = (0, off) ∧ off < wakeWindow ∧ off % 8 = 0) ∧
    (every [Need.read, .write] fun n => (s.aperture 0 0 n).1 = .counter 0x4000 0x40004000 ∧ (s.aperture 0 1 n).1 = .unmapped ∧
      (s.aperture 0 2 n).1 = .reserved 0x5010 ∧ (s.aperture 0 3 n).1 = .unmapped ∧ ((prt s fun p => { p with page := { p.page with capMap := 0x40000000 } }).aperture 0 0 n).1 = .failed) ∧
    (s.aperture 0 0 .write).2.isCounter 0x40004000 = false ∧ ¬(8 % 8 = 0 ∧ 4 = 8) ∧ ¬(4 % 8 = 0 ∧ 8 = 8) ∧
    (every [1#64, 2] fun n => ((counting n s).aperture 0 0 .write).1 = .counter 0x4000 0x40004000 ∧ n ≠ 0 ∧
      okWith (((counting n s).aperture 0 0 .write).2.decrement 0 0x4000 0x40004000 1) (fun _ => true) = true) := by decide +kernel

/-- A launch all of whose units are done. -/
def overLaunch : Launch := { launch 0 4 true false with started := 1, retired := 1 }

/-- A state with one decrement to perform. -/
def pendingWork (a : Word) : State := prt base fun p => { p with work := [.dec 0x6000 a 1] }

theorem witness_taskDecrements :
    (let s := prt (hostMap true) fun p => { p with work := [.dec 0x6000 0x40000100 1] };
      (s.part 0).state = .run ∧ (s.part 0).halt = none ∧ (s.part 0).work[0]? = some (.dec 0x6000 0x40000100 1) ∧
      (every [s, pkg s fun p => { p with hostUp := false }] fun s =>
        (match (s.setWork 0 0 []).agentAccess 0 0x40000100 8 .write with
          | .ok (_, x, u) => x.isSystem && ((u.holdLine 0 x true).hostDecrement 0 0x40000100 x 1).isSome == s.pkg.hostUp
          | .error c => !s.pkg.hostUp && c.isSome) = true)) ∧
    (let s := counting 1 (pendingWork 0x4000);
      (match (s.setWork 0 0 []).agentAccess 0 0x4000 8 .write with
        | .ok (loc, x, u) => !x.isSystem && okWith (u.decrement 0 0x4000 loc 1) fun _ => true
        | .error _ => false) = true) ∧
    (every [(0, 0x4000), (6, 0x4000), (7, 0x4000)] fun x =>
      let s := prt (putWords base 0x5000 [0x800000000004000, 0, 0, 0, 0, 0, 0, 0x5000]) fun p => { p with work := [.block 0x6000 0x5000 x.1] };
      (s.part 0).work[0]? = some (.block 0x6000 0x5000 x.1) ∧ ((s.part 0).work.take 0).any (·.record == 0x6000) = false) ∧
    (let s := fun w => putWords base 0x5000 [w, 0, 0, 0, 0, 0, 0, 0x5000];
      okWith ((s 0x4001).blockEntry 0 0x6000 0x5000 7) (fun _ => true) = true ∧ failsWith (base.blockEntry 0 0x6000 0x40000000 0) = true ∧
      failsWith ((s 0xFE00000000004000).blockEntry 0 0x6000 0x5000 0) = true ∧ okWith ((s 0).blockEntry 0 0x6000 0x5000 0) (fun _ => true) = true) := by
  decide +kernel

theorem witness_tasks : (let s := pendingWork 0x4000;
      (s.part 0).state = .run ∧ (s.part 0).halt = none ∧ (s.part 0).work[0]? = some (.dec 0x6000 0x4000 1) ∧
      okWith ((s.setWork 0 0 []).agentAccess 0 0x4000 8 .write) (fun x => !x.2.1.isSystem && !x.2.2.isCounter x.1) = true ∧
      (match ((pendingWork 0x40000000).setWork 0 0 []).agentAccess 0 0x40000000 8 .write with
        | .error (some _) => true
        | _ => false) = true) ∧
    (let s := launched overLaunch;
      (s.part 0).launches.find? (·.id == 0) = some overLaunch ∧ overLaunch.over = true ∧ (s.part 0).state = .run ∧ (s.part 0).halt = none ∧
      okWith ((s.setPart 0 { s.part 0 with launches := [], batches := [] }).agentLoc 0 overLaunch.record 128 .write) (fun _ => true) = true ∧
      failsWith ((s.setPart 0 { s.part 0 with launches := [], batches := [] }).agentLoc 0 0x40000000 128 .write) = true) ∧
    failsWith ((prt base fun p => { p with batches := [batch 0 256 true] }).closeBatch 0 0) = true ∧
    (every [batch 0 256 true, { batch 0 1 true with cluster := 0 }] fun b =>
      let s := prt (typed { base with clusters := base.clusters.put 0 { cycles := 512 } }) fun p => { p with batches := [b] };
      (s.part 0).batches.find? (·.slot == 0) = some b ∧ b.isOpen = true ∧ (s.part 0).state = .run ∧ (s.part 0).halt = none ∧
      (256 ≤ b.entries ∨ b.since + 512 ≤ (s.cluster b.cluster).cycles) ∧ okWith (s.closeBatch 0 0) (fun _ => true) = true ∧
      ((s.part 0).queues.get [] b.cls).length < 4096 ∧ (s.part 0).overflow.get [] b.cls = []) := by decide +kernel

/-- A team whose groups have all retired. -/
def retiredTeam (s : State) : State := grp s fun g => { g with retired := true, ended := true }

theorem witness_retire : (every [retiredTeam base, retiredTeam (launched (launch 0 4 true false))] fun s => (s.team 0).phase = .resident ∧
      (s.part 0).state = .run ∧ (s.part 0).halt = none ∧ (every (s.groupsOf 0) fun k => (s.group k).retired = true) ∧ s.commandsOf 0 = []) ∧
    (retiredTeam base).launchOf ((retiredTeam base).team 0) = none ∧
    (retiredTeam (launched (launch 0 4 true false))).launchOf ((retiredTeam base).team 0) = some (launch 0 4 true false) ∧
    (launch 0 4 true false).trec = 0 ∧
    bit base.p.dbg.ctl 1 = false ∧
    okWith ((retiredTeam (launched (launch 0 4 true false))).agentLoc 0 0x4000 128 .write) (fun _ => true) = true ∧
    okWith ((retiredTeam base).retireTeam 0) (fun _ => true) = true ∧
    failsWith ((retiredTeam (launched { launch 0 4 true false with record := 0x40000000 })).retireTeam 0) = true := by decide +kernel

/-- A KERNEL record of `units` units of type 9, class 2. -/
def kernelRecord (units : Nat) : List Word := [0, 0x5A00000000000000 ||| at_ units 32 ||| at_ 9 8 ||| at_ 2 4 ||| 1]

/-- Its launch, with `next` units placed. -/
def kernelLaunch (next units : Nat) : Launch :=
  { id := 0, record := 0x4000, range := false, draw := false, ttype := 9, cls := 2, units, next, nextUnit := units }

/-- The record heads its class; its launch has begun. -/
def dispatchable (next units : Nat) : State :=
  prt (putWords (typed base) 0x4000 (kernelRecord units)) fun p => { p with queues := [(2, [0x4000])], launches := [kernelLaunch next units], nextLaunch := 1 }

theorem witness_dispatch : (every [(1, 3), (4, 6)] fun x => let s := dispatchable x.1 x.2
    s.dispatching 0 = true ∧ (kernelLaunch x.1 x.2).slot = none ∧ 0 < x.1 ∧ x.1 + 1 < x.2 ∧
    okWith (s.examine 0 0) (fun y => match y.1 with
      | some (.unit l new ty place) => l == kernelLaunch x.1 x.2 && !new && place.all (fun z => decide (z.2.1.seats.length ≤ 32)) &&
          okWith ((y.2.dropHold 0 0).placeUnit 0 l new ty place) fun _ => true
      | _ => false) = true) ∧ 3 < 4 ∧
    (let s := prt (typed base) fun p => { p with queues := [(2, [0x40000000])] };
      s.dispatching 0 = true ∧ failsWith (s.examine 0 0) = true ∧
      (let s := prt s fun p => { p with launches := [{ kernelLaunch 0 3 with record := 0x40000000 }], nextLaunch := 1 };
        s.dispatching 0 = true ∧ okWith (s.examine 0 0) (fun y => match y.1 with
          | some (.unit l new ty place) => failsWith ((y.2.dropHold 0 0).placeUnit 0 l new ty place)
          | _ => false) = true)) ∧
    (let s := prt (putWords (typed base) 0x4000 [0, 0x5A00000000000000]) fun p => { p with queues := [(2, [0x4000])] };
      s.dispatching 0 = true ∧ okWith (s.examine 0 0) (fun y => match y.1 with
        | some (.finish cls rec loc) => cls == 2 && rec == 0x4000 &&
          okWith ((y.2.finishRecord 0 rec loc (y.2.recordWords loc)).popRecord 0 cls rec) fun _ => true
        | _ => false) = true) := by decide +kernel

/-- A NET_GET record of eight bytes heads class 0. -/
def netRecord : List Word := [0, 0x5A00000000000004, 0, 0x6000, 0x8000, 8, 0]

/-- The record in memory. -/
def netQueued (s : State) : State := prt (putWords (typed s) 0x4000 netRecord) fun p => { p with queues := [(0, [0x4000]), (7, [0x4000])] }

theorem witness_netEnqueue : every [0, 7] fun cls => let s := prt (netQueued base) fun p => { p with queues := [(cls, [0x4000])] }
    s.dispatching 0 = true ∧ cls < 8 ∧ (s.part 0).netQ.length < 1024 ∧ (s.part 0).overflow.get [] cls = [] ∧
    okWith (s.headOf 0 cls) (fun y => y.1 == some (.net 0x4000) &&
      okWith ((y.2.setPart 0 { y.2.part 0 with netQ := (y.2.part 0).netQ ++ [0x4000] }).popRecord 0 cls 0x4000) fun _ => true) = true := by
  decide +kernel

/-- A launch of type 9 over eight units, and an idle core 1. -/
def splittable : State :=
  prt (typed base) fun p => { p with
    page := { p.page with cores := [(0, 3)] }, launches := [{ launch 0 8 true false with ttype := 9 }], nextLaunch := 1 }

theorem witness_split : let s := splittable
    s.dispatching 0 = true ∧ s.eligible 0 1 = true ∧ (every s.teams fun x => x.2.core = 1 → s.keeps x.1 x.2 = false) ∧
    (every (List.range 8) fun k => (s.part 0).queues.get [] k = []) ∧
    (s.part 0).widest = some ({ launch 0 8 true false with ttype := 9 }, 0, 2) ∧ (s.part 0).readmit.get [] 2 = [] ∧
    okWith (s.readType 0 9) (fun y => y.1.cohort == 0 && (y.2.fitCores 0 [] y.1 false [1]).isSome) = true := by decide +kernel

/-- The same for class 0, with a type that needs 600 KiB of scratchpad, as core 1 holds back for one team. -/
def reservedSplit : State :=
  let s := prt splittable fun p => { p with launches := [{ launch 0 8 true false with ttype := 9 }] }
  let s := control s (64 * 9) [0x0001025810000024, 0x1000, 0x2000, 0, 0, 0, 0, 0]
  match s.readType 0 9 with
  | .ok (ty, _) => { s with cores := s.cores.put 1 { s.core 1 with resv := (s.occupied 1 []).fit ty } }
  | .error _ => s

theorem witness_splitReserved : let s := reservedSplit
    s.dispatching 0 = true ∧ s.eligible 0 1 = true ∧ (launch 0 8 true false).cls = 0 ∧
    (s.part 0).widest = some ({ launch 0 8 true false with ttype := 9 }, 0, 2) ∧ (s.part 0).readmit.get [] 0 = [] ∧
    okWith (s.readType 0 9) (fun y => y.1.cohort == 0 && (y.2.fitCores 0 [] y.1 false [1]).isNone &&
      (y.2.fitCores 0 [] y.1 true [1]).isSome) = true := by decide +kernel

theorem witness_residence : (base.team 0).phase = .resident ∧ (base.team 0).marked = false ∧
    (base.team 0).lastAdmitNs + 2000000 ≤ (pkg base fun p => { p with ns := 2000000 }).pkg.ns.toNat := by decide +kernel

/-- A class-3 team past its mark holds all of core 0's scratchpad, and a class-2 unit that needs some waits. -/
def contended : State :=
  let s := dispatchable 1 3
  let s := pkg (tm s fun t => { t with cls := 3, allot := { t.allot with spadN := 1024 } }) fun p => { p with ns := 2000000 }
  let s := prt s fun p => { p with dbg := { p.dbg with saveBase := 0, saveSlots := 1 } }
  control s (64 * 9) [0x0001000110000024, 0x1000, 0x2000, 0, 0, 0, 0, 0]

theorem witness_preempt : let s := contended
    s.dispatching 0 = true ∧ (s.part 0).holds.any (·.cls == 2) = false ∧
    okWith (s.headOf 0 2) (fun x => match x.1 with
      | some h => okWith (Head.type x.2 0 h) fun y => match y.1 with
        | some (ty, _, _) => (y.2.placeOn 0 0 2 [] ty).isNone && (match y.2.chooseVictims 0 0 2 ty with
          | some (core, vs) => core == 0 && vs == [0] && vs.all y.2.regionsQuiet
          | none => false)
        | none => false
      | none => false) = true := by decide +kernel

/-- The team is being saved; one of no groups, so that its image is small. -/
def saving : State := prt (tm base fun t => { t with phase := .saving, saveSlot := some 0, type := { t.type with groups := 0 } })
  fun p => { p with dbg := { p.dbg with saveBase := 0, saveSlots := 1 } }

theorem witness_save : let s := saving
    (s.team 0).phase = .saving ∧ (s.part 0).state = .run ∧ (s.part 0).halt = none ∧ s.drained (s.groupsOf 0) = true ∧
    okWith (s.storeTeam 0) (fun _ => true) = true ∧
    (match (prt s fun p => { p with dbg := { p.dbg with saveBase := 0x40000000 } }).storeTeam 0 with
      | .error (.fail _ _, _) => true
      | _ => false) = true := by decide +kernel

/-- The team is saved and first in its re-admit list; one of no groups. -/
def readmittable : State :=
  prt (tm saving fun t => { t with phase := .saved, allot := {} }) fun p => { p with readmit := [(0, [0])] }

theorem witness_restore : let s := readmittable
    s.dispatching 0 = true ∧ okWith (s.examine 0 0) (fun y => match y.1 with
      | some (.readmit key place) => key == 0 && place.length == 1 && okWith ((y.2.unlist 0 0 key).readmitAll key place) (fun _ => true) &&
          (let v := y.2.unlist 0 0 key; v.members (v.team key).part key == [key] && (v.team key).member == 0 && (v.team key).phase == .saved)
      | _ => false) = true ∧
    (let s := tm (prt s fun p => { p with dbg := { p.dbg with saveBase := 0x40000000 } }) fun t =>
        { t with type := { t.type with groups := 1 } };
      s.dispatching 0 = true ∧ okWith (s.examine 0 0) (fun y => match y.1 with
        | some (.readmit key place) => match (y.2.unlist 0 0 key).readmitAll key place with
          | .error (.fail _ _, m, _) => m == key
          | _ => false
        | _ => false) = true) := by decide +kernel

/-! ## Witnesses: network, call queue, streams, clocks, migration, halts and the debugger -/

/-- The network engine's queue holds the record, and endpoint 0 is `w`. -/
def netReady (w2 : Word) : State :=
  prt (control (netQueued base) 0x8000 [0, 0, w2, 0]) fun p => { p with netQ := [0x4000] }

/-- The endpoint entry that NET_OPERATION reads. -/
def endpoint (s : State) : List Word := (List.range 4).map fun i => s.wordAt (0xBFF08000 + 8 * i)

/-- A record with these words is first in the network engine's queue. -/
def netHead (ws : List Word) : State :=
  prt (control (putWords (typed base) 0x4000 ws) 0x8000 [0, 0, at_ 1 36, 0]) fun p => { p with netQ := [0x4000] }

/-- An operation's record that can be read, and what it holds. -/
def netFound (s : State) (p : List Word → State → Bool) : Bool :=
  decide ((s.part 0).netQ = [0x4000]) && s.dispatching 0 &&
    okWith ((s.setPart 0 { s.part 0 with netQ := [] }).agentLoc 0 0x4000 128 .write) fun u =>
      u.1 == 0x40004000 && p (u.2.recordWords u.1) u.2

/-- A NET_PUT record of eight bytes from `laddr`. -/
def putRecord (laddr : Word) : List Word := [0, 0x5A00000000000003, 0, laddr, 0x8000, 8, 0]

/-- All parts of a transfer of eight bytes from or to `addr` can be performed. -/
def moves8 (s : State) (addr : Word) (data : Option (List Byte)) (fin : NetEnd) : Bool :=
  let mv := netMove addr 8 data fin
  okWith (State.moveAll 0 s mv mv.todo) fun _ => true

theorem witness_netOperation : (every [at_ 1 44, 0, at_ 1 36] fun w2 => let s := netReady w2
      (s.part 0).netQ = 0x4000 :: [] ∧ s.dispatching 0 = true ∧
      okWith ((s.setPart 0 { s.part 0 with netQ := [] }).agentLoc 0 0x4000 128 .write) (fun u => u.1 == 0x40004000 &&
        recordOk (u.2.recordWords u.1) && decide (3 ≤ recKind (u.2.recordWords u.1)) &&
        okWith ((u.2.setRecordState u.1 2).agentLoc 0 (ctlAt (0x8000 + 32 * field (dword (u.2.recordWords u.1) 5) 32 10)) 32 .read)
          fun w => w.1 == 0xBFF08000 && endpoint w.2 == [0, 0, w2, 0]) = true) ∧
    endpointOk [0, 0, at_ 1 44, 0] false = false ∧ endpointOk [0, 0, 0, 0] false = true ∧ field (dword [0, 0, 0, 0] 2) 36 8 = 0 ∧
    endpointOk [0, 0, at_ 1 36, 0] false = true ∧ field (dword [0, 0, at_ 1 36, 0] 2) 36 8 ≠ 0 ∧ (netReady 0).pkg.netActive ≠ 1 ∧
    nextWith (State.sendPackets 0 { id := 0, record := 0x4000, kind := .get, words := netRecord, packets := 1, endpoint := [] } 1
      (netReady 0) 0) (fun _ => true) = true ∧
    (every [0x40000000#64, 0x4000] fun rec => let s := prt (netQueued base) fun p => { p with netQ := [rec] };
      (s.part 0).netQ = rec :: [] ∧ s.dispatching 0 = true) ∧
    failsWith ((prt (netQueued base) fun p => { p with netQ := [] }).agentLoc 0 0x40000000 128 .write) = true ∧
    failsWith ((netQueued (parted .run base)).agentLoc 0 (ctlAt 0x40000000) 32 .read) = true := by decide +kernel

theorem witness_netRecords :
    (every [0x6000#64, 0x40000000] fun laddr =>
      netFound (netHead (putRecord laddr)) (fun w u => recordOk w && netKindOf w == .put && netPackets .put w == 1 &&
        (u.part 0).netOps.isEmpty && moves8 (u.setRecordState 0x40004000 2) (dword w 3) none (.send 0 0) == (laddr == 0x6000)) = true) ∧
    netFound (netHead [0, 0x5A00000000000006]) (fun w _ => !recordOk w) = true ∧
    netFound (netHead [0, 0x5A00000000000000]) (fun w _ => recordOk w && recKind w == 0) = true ∧
    netFound (netHead [0, 0x5A00000100000002, 0, 5, 5, 1]) (fun w _ => recordOk w && emptyRange w) = true ∧
    netFound (netHead (kernelRecord 3)) (fun w u => recordOk w && recKind w == 1 && !emptyRange w &&
      okWith (u.pushRecord 0 (recClass w) 0x4000) fun _ => true) = true ∧
    (netHead (putRecord 0)).limit = none := by decide +kernel

/-- A NET_GET of two packets with none acknowledged. -/
def getOp : NetOp :=
  { id := 0, record := 0x4000, kind := .get, words := [0, 0, 0, 0x6000, 0x8000, 4104], packets := 2, sent := [(0, 0), (1, 0)], endpoint := [] }

theorem witness_netAck : let s := pkg (prt base fun p => { p with netOps := [getOp] }) fun p => { p with ns := 16000000 }
    (s.part 0).netOps.find? (·.id == 0) = some getOp ∧ s.dispatching 0 = true ∧ (every [0, 1] fun i => i < getOp.packets) ∧
    (s.part 0).netMoves = [] ∧ s.limit = none ∧
    SMap.find? getOp.acked 1 = none ∧ (List.replicate 8 (0 : Byte)).length = getOp.answerLen 1 ∧ getOp.mayAck 1 (List.replicate 8 0) = true ∧
    ({ getOp with acked := getOp.acked.put 1 (List.replicate 8 0) } : NetOp).done < getOp.packets ∧
    moves8 (s.unstamp 0 0 1) (dword getOp.words 3 + BitVec.ofNat 64 (netPiece getOp.words 1).1) (some (List.replicate 8 0)) (.land 0 1) = true ∧
    (every getOp.sent fun x => x.2 + 16000000 ≤ s.pkg.ns.toNat) ∧
    every [base, prt s fun p => { p with nextLaunch := 1 }] fun s => every (s.part 0).netOps fun x => x.id ≠ (s.part 0).nextLaunch := by decide +kernel

/-- The same of one packet, whose answer goes to `laddr`, with a remote decrement of `dec`. -/
def lastOp (laddr : Word) (dec : Nat) : NetOp :=
  { getOp with words := [0, 0, 0, laddr, 0x8000, 8, at_ dec 48], packets := 1 }

/-- The answer of an operation of one packet has landed, and it can be finished or not. -/
def lands (o : NetOp) (finishes : Bool) : Bool :=
  let s := prt base fun p => { p with netOps := [o] }
  let mv := netMove (dword o.words 3 + BitVec.ofNat 64 (netPiece o.words 0).1) 8 (some (List.replicate 8 0)) (.land 0 0)
  let o' := { o with acked := o.acked.put 0 (List.replicate 8 0), sent := SMap.del o.sent 0 }
  decide ((s.part 0).netOps.find? (·.id == 0) = some o) && s.dispatching 0 && decide (0 < o.packets) &&
    o.mayAck 0 (List.replicate 8 0) && o.answerLen 0 == 8 && decide (o.packets ≤ o'.done) &&
    okWith (State.moveAll 0 (s.unstamp 0 0 0) mv mv.todo) fun x =>
      let r := (x.2.mapNetOp 0 0 fun _ => o').finishNet 0 o'
      if finishes then okWith r fun _ => true else failsWith r

theorem witness_netLast : (every [0, 1] fun dec => lands (lastOp 0x6000 dec) true = true) ∧
    lands { lastOp 0x6000 0 with record := 0x40000000 } false = true ∧
    moves8 ((prt base fun p => { p with netOps := [lastOp 0x40000000 0] }).unstamp 0 0 0) 0x40000000 (some (List.replicate 8 0)) (.land 0 0) = false := by
  decide +kernel

/-- Partition 0 is endpoint 1 of job 2. -/
def joined : State := prt aperture fun p => { p with netid := 0x1000002 }

theorem witness_netArrivals : base.netTarget 2 1 = none ∧ joined.netTarget 2 1 = some 0 ∧ joined.pkg.recovery = false ∧
    (pkg joined fun p => { p with recovery := true }).pkg.recovery = true ∧ joined.limit = none ∧
    (every [Need.read, .write] fun need => joined.pagesFail 0 need (8 / 4096 + 2) 0x6000 8 = false ∧
      joined.pagesFail 0 need (8 / 4096 + 2) 0x40000000 8 = true ∧ joined.pagesFail 0 need (4096 / 4096 + 2) 0x6800 4096 = false) ∧
    (every [none, some [1, 2, 3, 4, 5, 6, 7, 8]] fun data => moves8 joined 0x6000 data (.answer 0) = true) ∧
    (match joined.agentAccess 0 (0x6001 : Word).toNat 1 .write with
      | .ok (_, x, _) => !x.isSystem
      | .error _ => false) = true ∧ (0x6001 : Word).toNat % 8 + [1, 2, 3, 4, 5, 6, (7 : Byte)].length ≤ 8 ∧
    okWith (joined.remoteAtomic 0 0x6000 5 8 1 2) (fun _ => true) = true ∧ failsWith (joined.remoteAtomic 0 0x40000000 0 4 1 2) = true ∧
    (joined.aperture 0 1 .write).1 = .unmapped ∧ (joined.aperture 0 0 .write).1 = .counter 0x4000 0x40004000 ∧
    (joined.aperture 0 2 .write).1 = .reserved 0x5010 ∧
    ((prt joined fun p => { p with page := { p.page with capMap := 0x40000000 } }).aperture 0 0 .write).1 = .failed ∧
    (joined.aperture 0 0 .write).2.isCounter 0x40004000 = false ∧
    okWith (((counting 1 joined).aperture 0 0 .write).2.decrement 0 0x4000 0x40004000 1) (fun _ => true) = true := by decide +kernel

/-- A SCALL that waits for its slot, in a ring of 2^n records. -/
def calling (n : Word) : State :=
  prt (grp (ring n base) fun g => { g with park := some (.scall 2 7 0x1000 [1, 2, 3, 4] 0), st := [{ seq := 0 }] })
    fun p => { p with page := { p.page with cqWake := 0x5000 } }

theorem witness_callQueue : (every [6#64, 16] fun n => let s := calling n; let p := s.part 0
      p.ringLog = some n.toNat ∧ s.serves 0 = true ∧ s.present 0 = true ∧ s.g.park = some (.scall 2 7 0x1000 [1, 2, 3, 4] 0) ∧
      (every s.g.st fun f => 0 ≤ f.seq) ∧ 0 ∉ p.calls ∧ s.pkg.hostUp = true ∧ s.ringRoom 0 n.toNat ≠ 0 ∧ p.calls = [] ∧
      okWith (s.agentSet 0 (p.wakeAddr (p.page.cqProd.toNat % 2 ^ n.toNat)) 1) (fun _ => true) = true ∧
      failsWith ((prt s fun p => { p with page := { p.page with cqWake := 0x40000000 } }).agentSet 0 0x40000000 1) = true ∧
      ((prt s fun p => { p with page := { p.page with cqWake := 0x40000000 } }).part 0).wakeAddr 0 = 0x40000000 ∧
      (prt s fun p => { p with calls := [1] }).ringRoom 0 n.toNat ≠ 0 ∧ (prt s fun p => { p with calls := [1] }).p.calls ≠ [] ∧
      0 ∉ (prt s fun p => { p with calls := [1] }).p.calls ∧ (pkg s fun p => { p with hostUp := false }).pkg.hostUp = false ∧
      (prt s fun p => { p with page := { p.page with cqProd := BitVec.ofNat 32 (2 ^ n.toNat) } }).ringRoom 0 n.toNat = 0) ∧
    (let s := pkg (prt (calling 6) fun p => { p with calls := [0], page := { p.page with cqProd := 64 } }) fun p => { p with ns := 1000 };
      (s.part 0).ringLog = some 6 ∧ (s.part 0).calls = 0 :: [] ∧ s.serves 0 = true ∧ (s.part 0).callNs + 1000 ≤ s.pkg.ns.toNat ∧
      s.pkg.hostUp = true ∧ s.ringRoom 0 6 = 0) ∧
    (every [[0], [0, 1]] fun ks =>
      let s := pkg (prt (calling 6) fun p => { p with calls := ks }) fun p => { p with ns := 1000 };
      let v := prt s fun p => { p with callNs := 1000, calls := ks.tail };
      (s.part 0).ringLog = some 6 ∧ (s.part 0).calls = 0 :: ks.tail ∧ s.serves 0 = true ∧ (s.part 0).callNs + 1000 ≤ s.pkg.ns.toNat ∧
      s.ringRoom 0 6 ≠ 0 ∧ okWith (v.postCall 0 0 6) (fun u => ks.tail == [] || nextWith (State.postWaiting 0 6 ks.tail.length u) fun _ => true) =
        true ∧
      failsWith ((prt v fun p => { p with page := { p.page with cqWake := 0x40000000 } }).postCall 0 0 6) = true) := by decide +kernel

/-- A group parked on slot `slot`, whose wake word is `w`. -/
def parkedCall (slot : Nat) (w : Word) : State :=
  putWords (prt (grp (ring 6 base) fun g => { g with park := some (.call 2 slot) })
    fun p => { p with page := { p.page with cqWake := 0x5000 } }) (0x5000 + 8 * slot) [w]

theorem witness_wake : every [0, 63] fun slot => let s := parkedCall slot 1; let off := 0x80000 + 8 * slot
    s.pkg.hostUp = true ∧ s.pkg.recovery = false ∧ s.owns 0 0 = true ∧ barAt 0 off (2 ^ 20) = (0, off) ∧ off < 2 ^ 20 ∧ wakeWindow ≤ off ∧
    off % 8 = 0 ∧ (s.part 0).ringLog = some 6 ∧ (off - wakeWindow) / 8 < 2 ^ 6 ∧ 0 < (1 : Word).toInt ∧
    okWith (s.agentLoc 0 ((s.part 0).wakeAddr slot) 8 .write) (fun u => decide (0 < (u.2.wordAt u.1).toInt) &&
      u.2.parkedCall 0 slot == some 0 && (u.2.group 0).wakeable && (u.2.group 0).park == some (.call 2 slot) &&
      okWith ((u.2.commitBytes u.1 (wordBytes 8 (u.2.wordAt u.1 - 1))).agentWord 0 ((s.part 0).wakeAddr slot)) fun v =>
        decide (v.1.toInt ≤ 0) && v.2.pkg.hostUp) = true ∧
    okWith ((parkedCall slot 0).agentLoc 0 ((s.part 0).wakeAddr slot) 8 .write) (fun u => decide ((u.2.wordAt u.1).toInt ≤ 0)) = true ∧
    okWith ((parkedCall slot 2).agentLoc 0 ((s.part 0).wakeAddr slot) 8 .write) (fun u =>
      okWith ((u.2.commitBytes u.1 (wordBytes 8 (u.2.wordAt u.1 - 1))).agentWord 0 ((s.part 0).wakeAddr slot)) fun v => decide (0 < v.1.toInt)) =
        true ∧
    okWith ((putWords (parkedCall (slot + 1) 1) (0x5000 + 8 * slot) [1]).agentLoc 0 ((s.part 0).wakeAddr slot) 8 .write) (fun u =>
      decide (0 < (u.2.wordAt u.1).toInt) &&
        ((u.2.commitBytes u.1 (wordBytes 8 (u.2.wordAt u.1 - 1))).parkedCall 0 slot).isNone) = true ∧
    failsWith ((prt s fun p => { p with page := { p.page with cqWake := 0x40000000 } }).agentLoc 0 0x40000000 8 .write) = true ∧
    ((grp s fun g => { g with stop := .debug }).group 0).wakeable = false ∧ (base.part 0).ringLog = none ∧ ¬(0 < (0 : Word).toInt) ∧
    (every [63, 64] fun j => 2 ^ 6 ≤ j ↔ j = 64) := by
  decide +kernel

theorem witness_streams : let s := grp base fun g => { g with lq := [blk] }
    let h := grp base fun g => { inTrap g with handlerBlock := some blk }
    let e := grp base fun g => { g with ended := true }
    let w := grp (inTx 3 base) fun g => { g with tx := { g.tx with watch := 65536 } }
    let q := prt base fun p => { p with serialQ := [0] }
    (s.group 0).running = false ∧ { s with actor := 0 }.mayIssue false = true ∧ (s.group 0).inHandler = false ∧ (s.group 0).lq = blk :: [] ∧
    (h.group 0).inHandler = true ∧ (h.group 0).handlerBlock = some blk ∧ (s.team 0).phase = .resident ∧ (h.group 0).running = false ∧ { h with actor := 0 }.mayIssue false = true ∧
    (e.team 0).phase = .resident ∧ (e.group 0).ended = true ∧ (e.group 0).retired = false ∧ (e.group 0).stop = .none ∧
    (e.group 0).restarting = false ∧ (e.group 0).laneIdle = true ∧ (e.group 0).handlerBlock = none ∧ (e.group 0).gl = [] ∧ (e.group 0).sp = [] ∧
    (e.group 0).st = [] ∧ 0 ∈ e.groupsOf 0 ∧ (every (e.groupsOf 0) fun j => j ≠ 0 → (e.group j).retired = true) ∧
    (1 ∈ (twoInRegion none).groupsOf 0 ∧ ((twoInRegion none).group 1).retired = false) ∧ (w.group 0).timedOut = true ∧
    (q.part 0).serialHolder = none ∧ (q.part 0).serialQ = 0 :: [] ∧ { q with actor := 0 }.mayIssue false = true ∧ q.commitLocked 0 = false := by decide +kernel

/-- Cluster 0 has run 1024 cycles; dies 0 and 3 wrote their boost limit a while ago. -/
def clocked : State :=
  pkg { base with clusters := base.clusters.put 0 { cycles := 1024, nominalNs := 40000 } } fun p =>
    { p with boost := [(0, { since := 10000 }), (3, { since := 10000 })] }

theorem witness_clocks : let s := clocked
    (s.core 0).ticks < (s.cluster (clusterOf 0)).cycles / 1024 ∧ (every [0, 3] fun port => port < 4) ∧ s.portIdle 0 3 = true ∧
    (s.core 0).idleFrom.get 0 3 + 1024 ≤ (s.cluster (clusterOf 0)).cycles ∧
    (every [0, 3] fun die => die < 4 ∧ 10000 ≤ (s.boostDie die).since ∧ every [0, 8] fun n => n ≤ (s.boostDie die).written) ∧
    (every [0, 15, 63] fun c => every [0, 15, 63] fun d => every [0, 7] fun i =>
      c / 16 = d / 16 → c ≠ d → (s.cluster c).slot = some i → (s.cluster d).slot ≠ some i) ∧
    0 < 64 ∧ 40000 ≤ (s.cluster 0).nominalNs := by decide +kernel

/-- A second-tier page of a 64 KiB unit at 4 GiB that asks to be migrated, with one free frame. -/
def migrating : State :=
  pkg ((((base.place (0x3000 + 8 * 4) (wordBytes 8 0x602D)).place 0x6000 (wordBytes 8 0x702D)).place 0x7000
    ((List.range 16).flatMap fun i => wordBytes 8 ((if i = 0 then 0x10000000001FD else 0x10000000001ED) + BitVec.ofNat 64 (4096 * i)))).place 0x8000 [0])
    fun p => { p with tier := [(0, 1)], migCnt := 1, migMap := 0x8000, migPool := 0x100000 }

/-- Its block has one CONTIG entry, so the open choice of the entry does not matter. -/
theorem migrating_pick : migrating.contigPick 0x7000 0 0x100000000 = 0 := by
  have h : ((List.range 16).filter fun j => bit (migrating.wordAt (0x7000 + 8 * (0 / 16 * 16 + j))) 0 &&
      bit (migrating.wordAt (0x7000 + 8 * (0 / 16 * 16 + j))) 4) = [0] := by decide +kernel
  simp only [State.contigPick, h, List.map, List.getD, Nat.zero_div, Nat.zero_mul, Nat.add_zero]
  cases Config.contigEntry migrating.free 0x100000000 % 17 <;> rfl

/-- One level of a walk that goes on, with every permission and no mark. -/
theorem walk_on {s : State} {va n base b : Nat}
    (h : let a := base + 8 * (va / 2 ^ (12 + 9 * (n + 1)) % 512)
      let e := s.wordAt a
      bit e 0 = true ∧ bit e 1 = false ∧ s.pkg.tableFormatBad e = false ∧ pteBase e = b ∧ bit e 2 = true ∧ bit e 3 = true ∧
        markOf a e false = []) :
    s.walkFrom .read va (n + 2) base true true [] = s.walkFrom .read va (n + 1) b true true [] := by
  obtain ⟨h0, h1, h2, h3, h4, h5, h6⟩ := h
  rw [State.walkFrom]
  simp [h0, h1, h2, h3, h4, h5, h6]

theorem migrating_busy : migrating.checkVa 0 0x100000000 .read false = .busy := by
  have h5 : migrating.walk 0 0x100000000 .read = .ok 0x1000000000000 0x10000000001FD [] := by
    rw [State.walk, walk_on (b := 0x2000) (by decide +kernel), walk_on (b := 0x3000) (by decide +kernel),
      walk_on (b := 0x6000) (by decide +kernel), walk_on (b := 0x7000) (by decide +kernel), State.walkFrom]
    have hi : 0x100000000 / 2 ^ (12 + 9 * 0) % 512 = 0 := by decide
    simp only [hi, if_true, migrating_pick]
    decide +kernel
  rw [State.checkVa, h5]
  decide +kernel

theorem witness_migration : let s := migrating
    (every [PartState.config, .run, .halted] fun x => ((parted x s).part 0).state ≠ .free) ∧
    s.leafEntry 0x100000000 5 (field (s.part 0).page.ptRoot 12 40 * 4096) = some 0x7000 ∧ s.nextFrame = some 0 ∧
    bit (s.wordAt 0x7000) 9 = false ∧ 0x7000 + 128 ≤ field s.pkg.migMap 3 49 * 8 + 0 / 8 ∧
    (let m : Migration := { part := 0, ptes := 0x7000, frame := 0x100000 };
      (pkg s fun p => { p with moves := [m] }).pkg.moves[0]? = some m) ∧
    (every (List.range 4) fun d => (s.part 0).dbg.traceWait.get [] d = []) ∧ (s.part 0).dbg.traceWait = [] ∧
    0x7000 + 128 ≤ 0x100000 ∧
    (every (List.range 16) fun j => let e := s.wordAt (0x7000 + 8 * j)
      0x100000 + 65536 ≤ pteBase e ∧ 0x7000 + 128 ≤ pteBase e) := by decide +kernel

/-- The halt line of partition 0 is raised. -/
def halting (f : Halt → Halt) (s : State) : State := prt s fun p => { p with halt := some (f { cause := 0x10, ns := 0 }) }

/-- Partition 0's debug page changed. -/
def debugged (f : Debug → Debug) (s : State) : State := prt s fun p => { p with dbg := f p.dbg }

/-- A debug stop of these groups, with these records. -/
def stopOf (gs : List Nat) (rs : List StopRecord) : DebugStop := { ns := 5, hit := false, groups := gs, records := rs }

/-- The group is asked to stop, and these debug stops have begun. -/
def askedIn (xs : List DebugStop) : State := debugged (fun d => { d with stops := xs }) (grp base fun g => { g with asked := true })

/-- A group stopped by the debugger. -/
def stopped : State := grp base fun g => { g with stop := .debug }

/-- The group's single step is over. -/
def overStep (s : State) : State := grp s fun g => { g with stepping := some true, stepOver := true }

/-- A record of a dump. -/
def stopRec : StopRecord := { src := 0, kind := 2, gid := 0, words := List.replicate 8 0 }

/-- A halt whose engines have all stopped and whose snapshot is latched. -/
def allHalted : State :=
  grp (halting (fun h => { h with latched := true, engines := [0], records := [stopRec] }) base) fun g => { g with stop := .halt }

theorem witness_stops : let s := overStep (halting id base)
    let x := stopOf [0] []
    let y := stopOf [0] [stopRec]
    let d := debugged (fun d => { d with stops := [y] }) base
    ((s.group 0).stepping ≠ none ∧ (s.group 0).stepOver = true ∧ (s.group 0).stop ≠ .halt ∧ (s.part 0).halt ≠ none) ∧
    ((askedIn [stopOf [1] [], x]).part 0).dbg.stops = [stopOf [1] []] ++ x :: [] ∧ 0 ∈ x.groups ∧ 0 ∉ (stopOf [1] []).groups ∧
    ((askedIn [x]).part 0).halt = none ∧ ((askedIn [x]).group 0).asked = true ∧
    ((d.part 0).dbg.dumps = [] ∧ (d.part 0).dbg.stops.find? d.stopOver = some y) ∧
    ((allHalted.part 0).dbg.dumps = [] ∧ (allHalted.part 0).dbg.stops.find? allHalted.stopOver = none ∧
      allHalted.allStopped 0 = true ∧ (allHalted.part 0).halt.any (fun h => !h.dumped && h.latched) = true) ∧
    (let s := overStep stopped
     (s.group 0).stop = .debug ∧ (s.group 0).stepping ≠ none ∧ (s.group 0).stepOver = true ∧
     ((s.endStep 0).group 0).stop = .debug ∧ ((s.endStep 0).group 0).stepping = none ∧ ((s.endStep 0).group 0).asked = false) ∧
    ((every (base.scopeOf 0 1) fun j => base.askable j = true) ∧ every (stopped.scopeOf 0 1) fun j => stopped.askable j = false) ∧
    bit (base.part 0).dbg.ctl 1 = false := by decide +kernel

theorem witness_halt : let s := halting id base
    let a := grp base fun g => { g with asked := true }
    let c := halting id (queued [copyCmd] [tileCmd])
    let n := halting id (prt base fun p => { p with netOps := [getOp] })
    let d := halting (fun h => { h with dumped := true }) base
    (s.group 0).retired = false ∧ s.present 0 = true ∧ (s.part 0).halt = some { cause := 0x10, ns := 0 } ∧ (s.group 0).stop ≠ .halt ∧
    (a.part 0).halt = none ∧ (a.group 0).asked = true ∧
    (every [true, false] fun m => ((c.core 0).queue m).any (fun x => x.part == 0 && !x.stopped) = true ∧
      every ((c.core 0).queue m) fun x => x.held = [] ∧ x.arrived = false) ∧
    (n.part 0).netMoves = [] ∧ ((halting (fun h => { h with dumped := true }) (parted .config base)).part 0).state = .config ∧ (c.part 0).halt = some { cause := 0x10, ns := 0 } ∧
    (0 ∉ (⟨0x10, 0, [], false, [], false⟩ : Halt).engines ∧ 1 ∉ (⟨0x10, 0, [], false, [], false⟩ : Halt).engines) ∧ (n.part 0).netOps ≠ [] ∧
    (d.part 0).state = .run ∧ (d.part 0).dbg.dumps = [] ∧ (d.part 0).dbg.stops.all (·.records.isEmpty) = true ∧ (debugged (fun d => { d with stops := [{ ns := 0, hit := false, groups := [0] }] }) d).p.dbg.stops.all (·.records.isEmpty) = true ∧ (d.part 0).halt = some { cause := 0x10, ns := 0, dumped := true } ∧
    (s.part 0).dbg.snaps = [] ∧ ((⟨0x10, 0, [], false, [], false⟩ : Halt).latched = false) ∧ 0 + 64 ≤ (pkg s fun p => { p with ns := 64 }).pkg.ns.toNat := by decide +kernel

/-- A dump of one record. -/
def job : DumpJob := { event := 1, cause := 0, records := [{ src := 0, kind := 2, gid := 0, words := List.replicate 8 0 }], ns := 0 }

theorem witness_dump : ((debugged (fun d => { d with snaps := [0] }) base).part 0).dbg.snaps = 0 :: [] ∧
    (every [(0#64, 0x80#64), (0x6000, 0x3F), (0x6000, 0x40), (0x6000, 0x80), (0x40000000, 0x80)] fun x =>
      let s := debugged (fun d => { d with dumps := [job], dumpBase := x.1, dumpLen := x.2 }) base
      let d := (s.part 0).dbg
      let len := field d.dumpLen 6 26 * 64
      d.dumps = job :: [] ∧ (x.1 = 0 → field d.dumpBase 6 51 = 0) ∧ (x.1 ≠ 0 → field d.dumpBase 6 51 ≠ 0) ∧ (x.2 = 0x3F → len < 64) ∧
      (x.2 ≠ 0x3F → 64 ≤ len) ∧ (x.1 ≠ 0 → x.2 ≠ 0x3F → (State.dumpStores 0 (at_ (field d.dumpBase 6 51) 6)
        (s.setPart 0 { s.part 0 with dbg := { d with dumps := [] } }) {} (dumpStoreList job 1 1
          ((dumpOrder job.records).take (min 1 (len / 64 - 1))) (decide (min 1 (len / 64 - 1) < 1)))).2.wait = false)) ∧
    ({} : DumpRun).bytes < 2 ^ 62 := by decide +kernel

theorem witness_debug : base.pkg.hostUp = true ∧ base.reaches 0 0 = true ∧ base.groupByGid 0 (0 % 2 ^ 14) = some 0 ∧
    base.groupByGid 0 (1 % 2 ^ 14) = none ∧ stopped.groupByGid 0 0 = some 0 ∧ (stopped.group 0).stop = .debug ∧ (stopped.group 0).stepping = none ∧
    (stopped.group 0).asked = false ∧ (every (base.scopeOf 0 3) fun j => (base.group j).park = none) ∧ (stopped.group 0).park = none ∧
    (base.group 0).stop ≠ .debug ∧ 2 ≤ 2 % 4 ∧ ((grp stopped fun g => { g with stepping := some true }).group 0).stepping ≠ none ∧
    ((grp stopped fun g => { g with asked := true }).group 0).asked = true ∧
    (let s := tm (launched { launch 0 4 true false with record := 0x40000000 }) fun t => { t with phase := .killing };
      failsWith (s.endKill 0) = true ∧ (s.part (s.team 0).part).state = .run ∧ (s.team 0).phase = .killing ∧
      s.drained (s.groupsOf 0) = true ∧ ((parted .halted s).part 0).state ≠ .run) ∧
    (let s := grp stopped fun g => { g with stepping := some true, stepOver := true };
      (s.group 0).stop = .debug ∧ (s.group 0).stepping ≠ none ∧ (s.group 0).stepOver = true) ∧
    (let s := tm base fun t => { t with phase := .killing };
      (s.team 0).phase = .killing ∧ s.drained (s.groupsOf 0) = true ∧ okWith (s.endKill 0) (fun _ => true) = true) ∧
    (let s := debugged (fun d => { d with ctl := 0x102 }) { base with clusters := base.clusters.put 0 { cycles := 1024 } }
      let d := (s.part 0).dbg
      field d.ctl 8 16 * 1024 ≠ 0 ∧ bit d.ctl 1 = true ∧ (s.group 0).sampled + field d.ctl 8 16 * 1024 ≤ (s.cluster 0).cycles ∧
      (s.team 0).phase = .resident ∧ (s.group 0).retired = false) := by decide +kernel

/-! ## Witnesses: the machine as a whole -/

theorem witness_settled : (Memory.wf base.mem = true ∧ base.stores = [] ∧ base.accesses = [] ∧ base.limit = none) ∧ nextWith (step base) (fun _ => true) = true := by
  decide +kernel

/-- What is fetched decodes to `i`. -/
def decodesAt (s : State) (lane : Bool) (i : Instr) : Bool :=
  if lane then okWith (s.fetchLane s.g.lpc) fun x => (match decodeLane x.1 with
      | .ok j => j == i
      | .error _ => false) && x.2.g.cur != 0 && decide (¬(x.2.g.tx.depth ≠ 0 ∧ x.2.g.skip = 0 ∧ x.2.g.lpc = x.2.g.tx.tgt.toNat))
  else okWith (s.fetch32 s.g.cpc) fun x => match decodeControl x.1 with
    | .ok j => j == i
    | .error _ => false

/-- The next turn of a stream of group 0 has its port's slot, and no walk of it is in progress. -/
def dueNow (s : State) (control : Bool) : Bool :=
  let e := { ({ s with agenda := [] }.elapse 0) with actor := 0 }
  e.slotFree (e.portOf 0).1 (e.portOf 0).2 control && !e.g.walks control

theorem witness_step :
    (let s := State.reset.withFetchWord 32 0x04304200;
      s.agenda = { dt := 0, act := .control 0 } :: [] ∧ s.mid = [] ∧ { ({ s with agenda := [] }.elapse 0) with actor := 0 }.controlDue = true ∧
      ({ ({ s with agenda := [] }.elapse 0) with actor := 0 }.fetchWatch true).isNone = true ∧
      dueNow s true = true ∧
      decodesAt { ({ s with agenda := [] }.elapse 0) with actor := 0 } false (.kaluAdd 3 1 2) = true) ∧
    (let s := grp (State.reset.withFetchWord 96 0x5A0000000000000000000000) fun g => { g with lpc := 0 };
      s.agenda = { dt := 0, act := .lane 0 } :: [] ∧ s.mid = [] ∧ { ({ s with agenda := [] }.elapse 0) with actor := 0 }.laneDue = true ∧
      ({ ({ s with agenda := [] }.elapse 0) with actor := 0 }.fetchWatch false).isNone = true ∧ dueNow s false = true ∧ s.g.lpc < 2 ^ 17 ∧
      decodesAt { ({ s with agenda := [] }.elapse 0) with actor := 0 } true (.laneNop fields) = true) ∧
    isEvent (.flitCrcFail) = true ∧ base.agenda = [] ∧
    { base with agenda := [{ dt := 0, act := .event .flitCrcFail }] }.agenda = { dt := 0, act := .event .flitCrcFail } :: [] := by
  decide +kernel

theorem witness_addressChecks : let s := roomy base
    let host := mapped 1 0x800000000006F
    let nc := mapped 1 0xC00000000006F
    (s.window 0 0x8000000000002000 = some none ∧ s.window 0 0x8000000000001FFF = some (some (.spad 0 0x1FFF))) ∧
    (s.window 0 0x200000000000000 = none ∧ 2 ^ 57 ≤ (0x200000000000000 : Word).toNat) ∧
    (s.window 0 0x1FFFFFFFFFFFFFF = none ∧ (0x1FFFFFFFFFFFFFF : Word).toNat < 2 ^ 57 ∧ (0x1FFFFFFFFFFFFFF : Word).toNat % 2 ≠ 0) ∧
    (let out := prt base fun p => { p with page := { p.page with ptRoot := 0xFFFFFFFF000 } };
      (inHbm (field (out.part 0).page.ptRoot 12 40 * 4096) || out.pkg.inTier (field (out.part 0).page.ptRoot 12 40 * 4096)) = false ∧
      (inHbm (field (s.part 0).page.ptRoot 12 40 * 4096) || s.pkg.inTier (field (s.part 0).page.ptRoot 12 40 * 4096)) = true) ∧
    (bit (s.wordAt (0x1000 + 8 * 1)) 0 = false ∧ bit ((base.place 0x1000 (wordBytes 8 3)).wordAt 0x1000) 1 = true) ∧
    (s.walk 0 0x40000000 .read = .fail causePageInvalid ∧ s.walk 0 0x3FFFFFFF .read = .ok 0x7FFFFFFF 0x4000006F []) ∧
    (match nc.walk 0 0x40000000 .read, host.walk 0 0x40000000 .read with
      | .ok a _ _, .ok b _ _ => targetOf a == .host 0 false && targetOf b == .host 0 true
      | _, _ => false) = true ∧
    nc.pkg.hostUp = true ∧ (pkg nc fun p => { p with hostUp := false }).pkg.hostUp = false ∧
    SMap.find? (pkg host fun p => { p with poison := [(0, [0])] }).pkg.poison (hostLine 0) ≠ none ∧
    (match busyPage.walk 0 0 .read with
      | .ok a e _ => targetOf a == .dev 0x40000000 && bit e 9
      | _ => false) = true ∧ bit (0x4000006F : Word) 9 = false ∧ bit (0x4000006F : Word) 7 = false ∧
    (s.team 0).type.spad * 1024 ≤ (0x8000000000002000 : Word).toNat % 2 ^ 24 ∧ (0x8000000000002000 : Word).toNat / 2 ^ 24 = 0x8000000000 := by
  decide +kernel

/-- The entries of the walk of `va`, level 5 first, from the table at `pa` on; the first argument counts the levels. -/
def walkEntries (s : State) (va : Nat) : Nat → Nat → List Word
  | 0, _ => []
  | n + 1, pa => let e := s.wordAt (pa + 8 * (va / 2 ^ (12 + 9 * n) % 512)); e :: walkEntries s va n (pteBase e)

/-- An address of HBM or of the second tier. -/
def inMemory (s : State) (pa : Nat) : Bool := inHbm pa || s.pkg.inTier pa

/-- An entry that names a table. -/
def isTable (s : State) (e : Word) : Bool :=
  bit e 0 && !bit e 1 && !bit e 4 && !bit e 6 && !bit e 7 && !bit e 8 && !bit e 9 && inMemory s (pteBase e)

/-- The walk of `va` reaches level `n`, where it finds `e`. -/
def reachesLevel (s : State) (va n : Nat) (e : Word) : Bool :=
  let root := field (s.part 0).page.ptRoot 12 40 * 4096
  let es := walkEntries s va 5 root
  inMemory s root && (es.take (5 - n)).all (isTable s) && es.getD (5 - n) 0 == e &&
    (n != 1 || (List.range 16).all fun j => !bit (s.wordAt (pteBase (es.getD 3 0) + 8 * (va / 4096 % 512 / 16 * 16 + j))) 4)

/-- A chain of tables that ends at level `n` with `e`, for address 0. -/
def chain (n : Nat) (e : Word) : State :=
  let at_' := fun (l : Nat) => 0x6000 - 0x1000 * l
  (List.range 5).foldl (fun s i => let l := i + 1
    if l < n then s else s.place (at_' l) (wordBytes 8 (if l = n then e else BitVec.ofNat 64 (at_' (l - 1)) + 0x2D))) base

theorem witness_walk : (every [5, 4, 3, 2, 1] fun n =>
      (every [0#64, 3, 0x40000019, 0x4000006D, 0x4000006F, 0x4000006B, 0x4002006F, 0xC00000006F] fun e => n = 1 ∧ bit e 4 = true ∨ reachesLevel (chain n e) 0 n e = true)) ∧
    bit (0 : Word) 0 = false ∧ bit (3 : Word) 1 = true ∧ isTable base 0x40000019 = false ∧
    bit (0x4000006D : Word) 1 = false ∧ bit (0x4000006F : Word) 1 = true ∧ bit (0x40000019 : Word) 4 = true ∧
    field (0x4002006F : Word) 12 9 ≠ 0 ∧ field (0x4000006F : Word) 12 18 = 0 ∧ bit (0x4000006B : Word) 2 = false ∧
    (let e : Word := 0xC00000006F; inMemory base (pteBase e) = false ∧ inSystem (pteBase e) = false) := by
  decide +kernel

theorem witness_time : base.pkg.ppb = 0 ∧ base.pkg.slew = 0 ∧ base.pkg.slewFrac = 0 ∧ 0 ≤ base.pkg.rateFrac ∧ base.pkg.rateFrac < nsUnit ∧
    (every (List.range 16) fun r => (base.g.stall.get 0 r).toNat + 0xFFFFFFFF < 2 ^ 32) ∧
    (every [(Wait.parked, 1), (.translate, 10), (.dep, 13)] fun x => (base.g.reasons (some x.1) none).min? = some x.2 ∧ x.2 ≤ 13) ∧
    ({ base.g with running := true } : Group).reasons none none = [] := by decide +kernel

/-! ## Decoding: one word of every row of the opcode table that has words

Each word is put together from the fields of its row (R299-R308) or from R309-R313. -/

/-- The fields of a lane word, in the order of R309. -/
def lw (sub : BitVec 4) (guard : Guard) (dst a b c : Operand) (ty : BitVec 4) (rnd : BitVec 3) (sat : BitVec 1) (imm : BitVec 32) :
    LaneFields := { sub, guard, dst, a, b, c, ty, rnd, sat, imm }

/-- R299, R320. -/
theorem decode_kalu :
    decodeTableWord 32 0x07DFFA00 = some (.kaluAdd 61 63 58) ∧
    decodeTableWord 32 0x07CFB901 = some (.kaluSub 60 62 57) ∧
    decodeTableWord 32 0x07BF7F02 = some (.kaluMul 59 61 63) ∧
    decodeTableWord 32 0x07AF3E03 = some (.kaluMulh 58 60 62) ∧
    decodeTableWord 32 0x079EFD04 = some (.kaluMulhu 57 59 61) ∧
    decodeTableWord 32 0x07FEBC08 = some (.kaluAnd 63 58 60) ∧
    decodeTableWord 32 0x07EE7B09 = some (.kaluOr 62 57 59) ∧
    decodeTableWord 32 0x07DFFA0A = some (.kaluXor 61 63 58) ∧
    decodeTableWord 32 0x07CFB90B = some (.kaluAndn 60 62 57) ∧
    decodeTableWord 32 0x07BF7F10 = some (.kaluShl 59 61 63) ∧
    decodeTableWord 32 0x07AF3E11 = some (.kaluShr 58 60 62) ∧
    decodeTableWord 32 0x079EFD12 = some (.kaluSra 57 59 61) ∧
    decodeTableWord 32 0x07FEBC18 = some (.kaluMin 63 58 60) ∧
    decodeTableWord 32 0x07EE7B19 = some (.kaluMax 62 57 59) ∧
    decodeTableWord 32 0x07DFFA1A = some (.kaluMinu 61 63 58) ∧
    decodeTableWord 32 0x07CFB91B = some (.kaluMaxu 60 62 57) ∧
    decodeTableWord 32 0x07BF4020 = some (.kaluClz 59 61) ∧
    decodeTableWord 32 0x07AF0021 = some (.kaluPopc 58 60) := by decide +kernel

/-- R300-R303, R321-R324. -/
theorem decode_immediate_and_predicate :
    decodeTableWord 32 0x0B9EFFFD = some (.addi 57 59 16381) ∧
    decodeTableWord 32 0x0FFEBFFC = some (.andi 63 58 16380) ∧
    decodeTableWord 32 0x13EE7FFB = some (.ori 62 57 16379) ∧
    decodeTableWord 32 0x17DFFFFA = some (.xori 61 63 16378) ∧
    decodeTableWord 32 0x1BCF8039 = some (.shli 60 62 57) ∧
    decodeTableWord 32 0x1BBF503F = some (.shri 59 61 63) ∧
    decodeTableWord 32 0x1BAF203E = some (.srai 58 60 62) ∧
    decodeTableWord 32 0x1F9FFFFB = some (.li 57 1048571) ∧
    decodeTableWord 32 0x23FFFFFA = some (.lis 63 1048570) ∧
    decodeTableWord 32 0x2530C400 = some (.cmp 2 3 3 4) ∧
    decodeTableWord 32 0x2A3EBFFC = some (.cmpi 4 3 58 16380) ∧
    decodeTableWord 32 0x3C204000 = some (.pand 2 1 0) ∧
    decodeTableWord 32 0x3C100720 = some (.por 1 0 7) ∧
    decodeTableWord 32 0x3C01C040 = some (.pnot 0 7) ∧
    decodeTableWord 32 0x3FEE7B64 = some (.sel 62 57 59 4) := by decide +kernel

/-- R302, R325-R328. -/
theorem decode_control_flow :
    decodeTableWord 32 0x2C07FFFC = some (.branch 524284) ∧
    decodeTableWord 32 0x2C57FFFD = some (.branchT 2 524285) ∧
    decodeTableWord 32 0x2C8FFFFC = some (.branchF 1 524284) ∧
    decodeTableWord 32 0x3007FFF9 = some (.call 524281) ∧
    decodeTableWord 32 0x307FFFFA = some (.callT 7 524282) ∧
    decodeTableWord 32 0x30B7FFF9 = some (.callF 6 524281) ∧
    decodeTableWord 32 0x340F4000 = some (.jr 61) ∧
    decodeTableWord 32 0x340F0001 = some (.jrL 60) ∧
    decodeTableWord 32 0x39403FFF = some (.loop 20 16383) ∧
    decodeTableWord 32 0xD4000000 = some (.ctlEnd) := by decide +kernel

/-- R304, R305, R329-R333. -/
theorem decode_control_memory :
    decodeTableWord 32 0x43DFF3FE = some (.ldk 61 63 3 0 1022) ∧
    decodeTableWord 32 0x47CFB3FB = some (.stk 60 62 3 1019) ∧
    decodeTableWord 32 0x4BBF6660 = some (.amok 59 61 0 1 9 1 0) ∧
    decodeTableWord 32 0x4C82CF83 = some (.cask 8 11 0 3 56 1 1) ∧
    decodeTableWord 32 0x539EE3FF = some (.waitm 57 59 0 1023) := by decide +kernel

/-- R306, R308, R334-R344. -/
theorem decode_interface_and_system :
    decodeTableWord 32 0x609B0003 = some (.lrun 9 5 65539) ∧
    decodeTableWord 32 0x67E00000 = some (.cpop 62) ∧
    decodeTableWord 32 0x68000000 = some (.lsync) ∧
    decodeTableWord 32 0x700F0000 = some (.setfmt 60) ∧
    decodeTableWord 32 0x73B01000 = some (.getfmt 59) ∧
    decodeTableWord 32 0x7020201F = some (.sread 2 31) ∧
    decodeTableWord 32 0x7001B015 = some (.swrite 6 21) ∧
    decodeTableWord 32 0x74004002 = some (.cwait 1 2) ∧
    decodeTableWord 32 0xC00EC007 = some (.assert 59 0 7) ∧
    decodeTableWord 32 0xC49F2AAA = some (.scall 9 60 10922) ∧
    decodeTableWord 32 0xC80FFFF9 = some (.brk 1048569) ∧
    decodeTableWord 32 0xCC000000 = some (.tret) ∧
    decodeTableWord 32 0xD0000000 = some (.nop) := by decide +kernel

/-- R307, R345-R361. -/
theorem decode_barriers_and_engines :
    decodeTableWord 32 0x83E02000 = some (.binit 62 8) ∧
    decodeTableWord 32 0x83D01C80 = some (.bexpect 61 7) ∧
    decodeTableWord 32 0x80001D00 = some (.barrive 7) ∧
    decodeTableWord 32 0x83B01584 = some (.bwait 59 5 4) ∧
    decodeTableWord 32 0x83A01203 = some (.btest 58 4 3) ∧
    decodeTableWord 32 0x80001280 = some (.binv 4) ∧
    decodeTableWord 32 0x87F003A0 = some (.tcopy 63 0 1 1 2 1) ∧
    decodeTableWord 32 0x87EE43B0 = some (.tcopyC 62 57 0 1 1 2 1) ∧
    decodeTableWord 32 0x8BD003A0 = some (.rqt 61 0 1 1 2 1) ∧
    decodeTableWord 32 0x8FC003BA = some (.mma 60 0 1 1 2 1 26) ∧
    decodeTableWord 32 0x9000001B = some (.tzero 27) ∧
    decodeTableWord 32 0x93A042BD = some (.tload 58 0 1 2 1 29) ∧
    decodeTableWord 32 0x939081BC = some (.tstore 57 0 1 2 1 28) ∧
    decodeTableWord 32 0x97F0003C = some (.tstat 63 1 28) ∧
    decodeTableWord 32 0x9BE003A0 = some (.tgath 62 0 1 1 2 1) := by decide +kernel

/-- R308, R362-R369. -/
theorem decode_regions_and_tasks :
    decodeTableWord 32 0xA3D00000 = some (.pbegin 61) ∧
    decodeTableWord 32 0xA4000000 = some (.pend) ∧
    decodeTableWord 32 0xA4000001 = some (.pendA) ∧
    decodeTableWord 32 0xA8000000 = some (.pabort) ∧
    decodeTableWord 32 0xAFF00002 = some (.pquery 63 0 2) ∧
    decodeTableWord 32 0xB0415048 = some (.tspawn 4 5 2 9) ∧
    decodeTableWord 32 0xB7EE4000 = some (.tdec 62 57) ∧
    decodeTableWord 32 0xB8600000 = some (.rclaim 6) ∧
    decodeTableWord 32 0xBC0000FC = some (.tfin 252) := by decide +kernel

/-- R309-R313. -/
theorem decode_lane_integer :
    decodeTableWord 96 0x010900E80B08000F80000001 = some (.iadd (lw 0 ⟨true, 1⟩ (.v 3) (.imm) (.laneid) (.v 0) 0 7 1 0x80000001)) ∧
    decodeTableWord 96 0x02003F90E918001100000000 = some (.isub (lw 0 ⟨false, 0⟩ (.v 254) (.o 14) (.a 6) (.v 0) 1 0 1 0)) ∧
    decodeTableWord 96 0x030143EC1808000800000000 = some (.imul (lw 0 ⟨false, 1⟩ (.o 15) (.one) (.l 2) (.v 0) 0 4 0 0)) ∧
    decodeTableWord 96 0x041000402B00000000000000 = some (.imulh (lw 1 ⟨false, 0⟩ (.v 1) (.v 2) (.zero) (.v 0) 0 0 0 0)) ∧
    decodeTableWord 96 0x050F00804019081100000000 = some (.imad (lw 0 ⟨true, 7⟩ (.v 2) (.v 4) (.v 6) (.o 8) 1 0 1 0)) ∧
    decodeTableWord 96 0x0610026C3B10000000000000 = some (.imin (lw 1 ⟨false, 0⟩ (.v 9) (.quadid) (.groupid) (.v 0) 0 0 0 0)) ∧
    decodeTableWord 96 0x07000240801C000000000000 = some (.imax (lw 0 ⟨false, 0⟩ (.v 9) (.v 8) (.v 7) (.v 0) 0 0 0 0)) ∧
    decodeTableWord 96 0x080840E41000000000000000 = some (.iabs (lw 0 ⟨true, 0⟩ (.o 3) (.a 1) (.v 0) (.v 0) 0 0 0 0)) ∧
    decodeTableWord 96 0x090000600804000000000000 = some (.laneAnd (lw 0 ⟨false, 0⟩ (.v 1) (.l 0) (.l 1) (.v 0) 0 0 0 0)) ∧
    decodeTableWord 96 0x0A000060391C000000000000 = some (.laneOr (lw 0 ⟨false, 0⟩ (.v 1) (.l 3) (.a 7) (.v 0) 0 0 0 0)) ∧
    decodeTableWord 96 0x0B0200680A00000000000005 = some (.laneXor (lw 0 ⟨false, 2⟩ (.v 1) (.imm) (.imm) (.v 0) 0 0 0 5)) ∧
    decodeTableWord 96 0x0C0001006000001000000000 = some (.laneNot (lw 0 ⟨false, 0⟩ (.v 4) (.v 6) (.v 0) (.v 0) 1 0 0 0)) ∧
    decodeTableWord 96 0x0D000040200C000000000000 = some (.laneShl (lw 0 ⟨false, 0⟩ (.v 1) (.v 2) (.v 3) (.v 0) 0 0 0 0)) ∧
    decodeTableWord 96 0x0E0000804018001000000000 = some (.laneShr (lw 0 ⟨false, 0⟩ (.v 2) (.v 4) (.v 6) (.v 0) 1 0 0 0)) ∧
    decodeTableWord 96 0x0F0001402B04000000000000 = some (.laneSra (lw 0 ⟨false, 0⟩ (.v 5) (.v 2) (.one) (.v 0) 0 0 0 0)) ∧
    decodeTableWord 96 0x101000804000001000004000 = some (.bfe (lw 1 ⟨false, 0⟩ (.v 2) (.v 4) (.v 0) (.v 0) 1 0 0 0x4000)) ∧
    decodeTableWord 96 0x11000040200C00000000011F = some (.bfi (lw 0 ⟨false, 0⟩ (.v 1) (.v 2) (.v 3) (.v 0) 0 0 0 0x11f)) ∧
    decodeTableWord 96 0x120000C02000001000000000 = some (.laneClz (lw 0 ⟨false, 0⟩ (.v 3) (.v 2) (.v 0) (.v 0) 1 0 0 0)) ∧
    decodeTableWord 96 0x130000C03000000000000000 = some (.lanePopc (lw 0 ⟨false, 0⟩ (.v 3) (.v 3) (.v 0) (.v 0) 0 0 0 0)) ∧
    decodeTableWord 96 0x140000C05000000000000000 = some (.brev (lw 0 ⟨false, 0⟩ (.v 3) (.v 5) (.v 0) (.v 0) 0 0 0 0)) ∧
    decodeTableWord 96 0x157000C02010001000000000 = some (.iset (lw 7 ⟨false, 0⟩ (.v 3) (.v 2) (.v 4) (.v 0) 1 0 0 0)) ∧
    decodeTableWord 96 0x160000804018011000000000 = some (.laneSel (lw 0 ⟨false, 0⟩ (.v 2) (.v 4) (.v 6) (.v 1) 1 0 0 0)) ∧
    decodeTableWord 96 0x17000110C000002000000000 = some (.mov (lw 0 ⟨false, 0⟩ (.v 4) (.o 12) (.v 0) (.v 0) 2 0 0 0)) ∧
    decodeTableWord 96 0x1813018000000000DEADBEEF = some (.movi (lw 1 ⟨false, 3⟩ (.v 6) (.v 0) (.v 0) (.v 0) 0 0 0 0xdeadbeef)) := by decide +kernel

/-- R309-R313. -/
theorem decode_lane_float :
    decodeTableWord 96 0x20000040200C002600000000 = some (.fadd (lw 0 ⟨false, 0⟩ (.v 1) (.v 2) (.v 3) (.v 0) 2 3 0 0)) ∧
    decodeTableWord 96 0x210000804018001400000000 = some (.fsub (lw 0 ⟨false, 0⟩ (.v 2) (.v 4) (.v 6) (.v 0) 1 2 0 0)) ∧
    decodeTableWord 96 0x22000068000C000E3F800000 = some (.fmul (lw 0 ⟨false, 0⟩ (.v 1) (.imm) (.v 3) (.v 0) 0 7 0 0x3f800000)) ∧
    decodeTableWord 96 0x230B02802406000200000000 = some (.ffma (lw 0 ⟨true, 3⟩ (.v 10) (.v 2) (.o 1) (.l 0) 0 1 0 0)) ∧
    decodeTableWord 96 0x24000040200C003000000000 = some (.fmin (lw 0 ⟨false, 0⟩ (.v 1) (.v 2) (.v 3) (.v 0) 3 0 0 0)) ∧
    decodeTableWord 96 0x25000040200C000000000000 = some (.fmax (lw 0 ⟨false, 0⟩ (.v 1) (.v 2) (.v 3) (.v 0) 0 0 0 0)) ∧
    decodeTableWord 96 0x260000402000000200000000 = some (.frcp (lw 0 ⟨false, 0⟩ (.v 1) (.v 2) (.v 0) (.v 0) 0 1 0 0)) ∧
    decodeTableWord 96 0x270000804000001400000000 = some (.frsq (lw 0 ⟨false, 0⟩ (.v 2) (.v 4) (.v 0) (.v 0) 1 2 0 0)) ∧
    decodeTableWord 96 0x280000402000000E00000000 = some (.fsqrt (lw 0 ⟨false, 0⟩ (.v 1) (.v 2) (.v 0) (.v 0) 0 7 0 0)) ∧
    decodeTableWord 96 0x290000402000000800000000 = some (.fexp2 (lw 0 ⟨false, 0⟩ (.v 1) (.v 2) (.v 0) (.v 0) 0 4 0 0)) ∧
    decodeTableWord 96 0x2A0000402000000600000000 = some (.flog2 (lw 0 ⟨false, 0⟩ (.v 1) (.v 2) (.v 0) (.v 0) 0 3 0 0)) ∧
    decodeTableWord 96 0x2B0000402000000000000000 = some (.ftanh (lw 0 ⟨false, 0⟩ (.v 1) (.v 2) (.v 0) (.v 0) 0 0 0 0)) ∧
    decodeTableWord 96 0x2C0000402000000000000000 = some (.fsin (lw 0 ⟨false, 0⟩ (.v 1) (.v 2) (.v 0) (.v 0) 0 0 0 0)) ∧
    decodeTableWord 96 0x2D0000402000000200000000 = some (.fcos (lw 0 ⟨false, 0⟩ (.v 1) (.v 2) (.v 0) (.v 0) 0 1 0 0)) ∧
    decodeTableWord 96 0x2E6000402010001000000000 = some (.fset (lw 6 ⟨false, 0⟩ (.v 1) (.v 2) (.v 4) (.v 0) 1 0 0 0)) ∧
    decodeTableWord 96 0x2F0000402000003000000000 = some (.fclass (lw 0 ⟨false, 0⟩ (.v 1) (.v 2) (.v 0) (.v 0) 3 0 0 0)) ∧
    decodeTableWord 96 0x300000402000002800000000 = some (.frnd (lw 0 ⟨false, 0⟩ (.v 1) (.v 2) (.v 0) (.v 0) 2 4 0 0)) := by decide +kernel

/-- R309-R313. -/
theorem decode_lane_conversion :
    decodeTableWord 96 0x40E000402000000000000000 = some (.cvt (lw 14 ⟨false, 0⟩ (.v 1) (.v 2) (.v 0) (.v 0) 0 0 0 0)) ∧
    decodeTableWord 96 0x41D000804000001200000000 = some (.cvti (lw 13 ⟨false, 0⟩ (.v 2) (.v 4) (.v 0) (.v 0) 1 1 0 0)) ∧
    decodeTableWord 96 0x42000040200C002400000000 = some (.pack (lw 0 ⟨false, 0⟩ (.v 1) (.v 2) (.v 3) (.v 0) 2 2 0 0)) ∧
    decodeTableWord 96 0x431000402000003000000000 = some (.unpk (lw 1 ⟨false, 0⟩ (.v 1) (.v 2) (.v 0) (.v 0) 3 0 0 0)) ∧
    decodeTableWord 96 0x440000805000009000000000 = some (.mxq (lw 0 ⟨false, 0⟩ (.v 2) (.v 5) (.v 0) (.v 0) 9 0 0 0)) ∧
    decodeTableWord 96 0x480000402000001000000000 = some (.tagq (lw 0 ⟨false, 0⟩ (.v 1) (.v 2) (.v 0) (.v 0) 1 0 0 0)) ∧
    decodeTableWord 96 0x49000040200C002000000000 = some (.tagg (lw 0 ⟨false, 0⟩ (.v 1) (.v 2) (.v 3) (.v 0) 2 0 0 0)) ∧
    decodeTableWord 96 0x4A000080400C001000000000 = some (.tags (lw 0 ⟨false, 0⟩ (.v 2) (.v 4) (.v 3) (.v 0) 1 0 0 0)) ∧
    decodeTableWord 96 0x4B000040200C000000000000 = some (.tagm (lw 0 ⟨false, 0⟩ (.v 1) (.v 2) (.v 3) (.v 0) 0 0 0 0)) := by decide +kernel

/-- R309-R313. -/
theorem decode_lane_control :
    decodeTableWord 96 0x50100000100000000FFF0FFF = some (.laneIf (lw 1 ⟨false, 0⟩ (.v 0) (.v 1) (.v 0) (.v 0) 0 0 0 0xfff0fff)) ∧
    decodeTableWord 96 0x510000000000000000070001 = some (.laneElse (lw 0 ⟨false, 0⟩ (.v 0) (.v 0) (.v 0) (.v 0) 0 0 0 0x70001)) ∧
    decodeTableWord 96 0x520000000000000000000000 = some (.endif (lw 0 ⟨false, 0⟩ (.v 0) (.v 0) (.v 0) (.v 0) 0 0 0 0)) ∧
    decodeTableWord 96 0x530000000000000000000000 = some (.laneLoop (lw 0 ⟨false, 0⟩ (.v 0) (.v 0) (.v 0) (.v 0) 0 0 0 0)) ∧
    decodeTableWord 96 0x541A00002000000000000000 = some (.laneBrk (lw 1 ⟨true, 2⟩ (.v 0) (.v 2) (.v 0) (.v 0) 0 0 0 0)) ∧
    decodeTableWord 96 0x550000201000000000000000 = some (.cont (lw 0 ⟨false, 0⟩ (.v 0) (.l 1) (.v 0) (.v 0) 0 0 0 0)) ∧
    decodeTableWord 96 0x560000000000000000000000 = some (.endl (lw 0 ⟨false, 0⟩ (.v 0) (.v 0) (.v 0) (.v 0) 0 0 0 0)) ∧
    decodeTableWord 96 0x570000000000000000000000 = some (.exit (lw 0 ⟨false, 0⟩ (.v 0) (.v 0) (.v 0) (.v 0) 0 0 0 0)) ∧
    decodeTableWord 96 0x580000000000000000000000 = some (.lend (lw 0 ⟨false, 0⟩ (.v 0) (.v 0) (.v 0) (.v 0) 0 0 0 0)) ∧
    decodeTableWord 96 0x591000001000000000000000 = some (.yield (lw 1 ⟨false, 0⟩ (.v 0) (.v 1) (.v 0) (.v 0) 0 0 0 0)) ∧
    decodeTableWord 96 0x5A0600000000000000000000 = some (.laneNop (lw 0 ⟨false, 6⟩ (.v 0) (.v 0) (.v 0) (.v 0) 0 0 0 0)) := by decide +kernel

/-- R309-R313. -/
theorem decode_lane_cross :
    decodeTableWord 96 0x600000000000000000000765 = some (.mand (lw 0 ⟨false, 0⟩ (.v 0) (.v 0) (.v 0) (.v 0) 0 0 0 0x765)) ∧
    decodeTableWord 96 0x610000000000000000000123 = some (.mor (lw 0 ⟨false, 0⟩ (.v 0) (.v 0) (.v 0) (.v 0) 0 0 0 0x123)) ∧
    decodeTableWord 96 0x620000000000000000000047 = some (.mnot (lw 0 ⟨false, 0⟩ (.v 0) (.v 0) (.v 0) (.v 0) 0 0 0 0x47)) ∧
    decodeTableWord 96 0x630000003000000000000007 = some (.vote (lw 0 ⟨false, 0⟩ (.v 0) (.v 3) (.v 0) (.v 0) 0 0 0 7)) ∧
    decodeTableWord 96 0x643000402B08000000000000 = some (.shfl (lw 3 ⟨false, 0⟩ (.v 1) (.v 2) (.laneid) (.v 0) 0 0 0 0)) ∧
    decodeTableWord 96 0x652000804000001000000000 = some (.qswp (lw 2 ⟨false, 0⟩ (.v 2) (.v 4) (.v 0) (.v 0) 1 0 0 0)) ∧
    decodeTableWord 96 0x667000402000000000000000 = some (.qred (lw 7 ⟨false, 0⟩ (.v 1) (.v 2) (.v 0) (.v 0) 0 0 0 0)) ∧
    decodeTableWord 96 0x672000804000001000000000 = some (.gred (lw 2 ⟨false, 0⟩ (.v 2) (.v 4) (.v 0) (.v 0) 1 0 0 0)) ∧
    decodeTableWord 96 0x68B000402000000000000000 = some (.gscan (lw 11 ⟨false, 0⟩ (.v 1) (.v 2) (.v 0) (.v 0) 0 0 0 0)) := by decide +kernel

/-- R309-R313. -/
theorem decode_lane_memory :
    decodeTableWord 96 0x709000C040000000FFFFFFF0 = some (.ld (lw 9 ⟨false, 0⟩ (.v 3) (.v 4) (.v 0) (.v 0) 0 0 0 0xfffffff0)) ∧
    decodeTableWord 96 0x714500242020000000000010 = some (.st (lw 4 ⟨false, 5⟩ (.v 0) (.a 2) (.v 8) (.v 0) 0 0 0 0x10)) ∧
    decodeTableWord 96 0x723001002408000000000008 = some (.ldt (lw 3 ⟨false, 0⟩ (.v 4) (.v 2) (.o 2) (.v 0) 0 0 0 8)) ∧
    decodeTableWord 96 0x732000202018050000000004 = some (.stt (lw 2 ⟨false, 0⟩ (.v 0) (.l 2) (.v 6) (.v 5) 0 0 0 4)) ∧
    decodeTableWord 96 0x74A000006010008D00000000 = some (.atom (lw 10 ⟨false, 0⟩ (.v 0) (.v 6) (.v 4) (.v 0) 8 6 1 0)) ∧
    decodeTableWord 96 0x7540010020200C0A00000020 = some (.cas (lw 4 ⟨false, 0⟩ (.v 4) (.v 2) (.v 8) (.v 12) 0 5 0 0x20)) ∧
    decodeTableWord 96 0x760000002000000000000080 = some (.pref (lw 0 ⟨false, 0⟩ (.v 0) (.v 2) (.v 0) (.v 0) 0 0 0 0x80)) := by decide +kernel

/-- R309-R313. -/
theorem decode_lane_transaction :
    decodeTableWord 96 0x80000000000000000001FFFF = some (.xbegin (lw 0 ⟨false, 0⟩ (.v 0) (.v 0) (.v 0) (.v 0) 0 0 0 0x1ffff)) ∧
    decodeTableWord 96 0x801000000000000000000010 = some (.xbeginS (lw 1 ⟨false, 0⟩ (.v 0) (.v 0) (.v 0) (.v 0) 0 0 0 0x10)) ∧
    decodeTableWord 96 0x810000000000000000000007 = some (.xend (lw 0 ⟨false, 0⟩ (.v 0) (.v 0) (.v 0) (.v 0) 0 0 0 7)) ∧
    decodeTableWord 96 0x820C000000000000000000FF = some (.xabort (lw 0 ⟨true, 4⟩ (.v 0) (.v 0) (.v 0) (.v 0) 0 0 0 0xff)) ∧
    decodeTableWord 96 0x830000400000000000000000 = some (.xstat (lw 0 ⟨false, 0⟩ (.v 1) (.v 0) (.v 0) (.v 0) 0 0 0 0)) ∧
    decodeTableWord 96 0x880004000000000000000F1F = some (.tld (lw 0 ⟨false, 0⟩ (.v 16) (.v 0) (.v 0) (.v 0) 0 0 0 0xf1f)) ∧
    decodeTableWord 96 0x890000008000000000000302 = some (.tst (lw 0 ⟨false, 0⟩ (.v 0) (.v 8) (.v 0) (.v 0) 0 0 0 0x302)) := by decide +kernel

/-! ## Smoke tests of well-formedness: one ill-formed term for each check of R314 that a word shows -/

/-- A field that must not be 0, forms and conditions that the maps do not give, and registers beyond the file or odd. -/
theorem illformed_control : [.loop 0 1, .ldk 1 2 3 1 0, .amok 1 2 0 0 10 0 0, .cask 2 3 1 0 4 0 0, .cask 3 3 0 0 4 0 0,
    .cask 2 3 0 0 5 0 0, .cask 2 3 0 0 0 0 0, .lrun 59 5 0, .sread 1 0x0E, .sread 1 0x13, .sread 1 0x20, .swrite 1 0x14, .cwait 0 3,
    .pquery 1 2 3, .pquery 1 2 1, .pquery 1 2 2, .rclaim 5, .scall 1 61 0].all (fun i : Instr => !i.wf) = true := by decide +kernel

/-- A scope without ACQ and REL, and a barrier under NB (R307). -/
theorem illformed_engine : [.tcopy 1 0 0 0 1 0, .tcopy 1 2 0 0 0 1, .tcopyC 1 2 0 0 0 2 0, .rqt 1 1 1 0 0 1, .mma 1 0 0 0 3 0 0, .mma 1 4 1 0 0 1 0,
    .tload 1 0 0 1 0 0, .tload 1 9 0 0 1 0, .tstore 1 0 0 1 0 0, .tstore 1 9 0 0 1 0, .tgath 1 0 0 0 1 0].all (fun i : Instr => !i.wf) = true := by
  decide +kernel

/-- R310-R314 on lane words, in the order of R314's list: sub, type, an unread field, imm32 unnamed or named where it has a
fixed purpose, a wide base, the destination, rounding 5 and 6, sat, ORD, and a guard where none may stand. -/
theorem illformed_lane : [.iadd (lw 1 ⟨false, 0⟩ (.v 1) (.v 2) (.v 3) (.v 0) 0 0 0 0), .iadd (lw 0 ⟨false, 0⟩ (.v 2) (.v 2) (.v 2) (.v 0) 2 0 0 0),
    .iabs (lw 0 ⟨false, 0⟩ (.v 1) (.v 2) (.v 3) (.v 0) 0 0 0 0), .iadd (lw 0 ⟨false, 0⟩ (.v 1) (.v 2) (.v 3) (.v 0) 0 0 0 1),
    .ld (lw 2 ⟨false, 0⟩ (.v 1) .imm (.v 0) (.v 0) 0 0 0 0), .iadd (lw 0 ⟨false, 0⟩ (.v 2) (.v 3) (.v 4) (.v 0) 1 0 0 0),
    .iadd (lw 0 ⟨false, 0⟩ (.l 1) (.v 2) (.v 3) (.v 0) 0 0 0 0), .fadd (lw 0 ⟨false, 0⟩ (.v 1) (.v 2) (.v 3) (.v 0) 0 5 0 0),
    .fmin (lw 0 ⟨false, 0⟩ (.v 1) (.v 2) (.v 3) (.v 0) 0 6 0 0), .imul (lw 0 ⟨false, 0⟩ (.v 1) (.v 2) (.v 3) (.v 0) 0 0 1 0),
    .ld (lw 2 ⟨false, 0⟩ (.v 1) (.v 2) (.v 0) (.v 0) 0 1 0 0), .endif (lw 0 ⟨false, 1⟩ (.v 0) (.v 0) (.v 0) (.v 0) 0 0 0 0),
    .laneIf (lw 0 ⟨false, 0⟩ (.v 0) (.v 1) (.v 0) (.v 0) 0 0 0 0x1000), .bfe (lw 0 ⟨false, 0⟩ (.v 1) (.v 2) (.v 0) (.v 0) 0 0 0 0x2001),
    .cvt (lw 3 ⟨false, 0⟩ (.v 1) (.v 2) (.v 0) (.v 0) 3 0 0 0), .cvti (lw 0 ⟨false, 0⟩ (.v 1) (.v 2) (.v 0) (.v 0) 1 0 0 0),
    .gred (lw 8 ⟨false, 0⟩ (.v 1) (.v 2) (.v 0) (.v 0) 0 0 0 0), .ld (lw 0xA ⟨false, 0⟩ (.v 1) (.v 2) (.v 0) (.v 0) 0 0 0 0),
    .atom (lw 4 ⟨false, 0⟩ (.v 4) (.v 2) (.v 8) (.v 0) 0 0 0 0), .cas (lw 1 ⟨false, 0⟩ (.v 4) (.v 2) (.v 8) (.v 12) 0 0 0 0),
    .mand (lw 0 ⟨false, 0⟩ (.v 0) (.v 0) (.v 0) (.v 0) 0 0 0 8), .xbegin (lw 0 ⟨false, 0⟩ (.v 0) (.v 0) (.v 0) (.v 0) 0 0 0 0x20000),
    .xbegin (lw 1 ⟨false, 0⟩ (.v 0) (.v 0) (.v 0) (.v 0) 0 0 0 0), .tld (lw 0 ⟨false, 0⟩ (.v 12) (.v 0) (.v 0) (.v 0) 0 0 0 0),
    .tst (lw 0 ⟨false, 0⟩ (.v 0) (.v 8) (.v 0) (.v 0) 0 0 0 0x1000)].all (fun i : Instr => !i.wf) = true := by decide +kernel

/-- Words that no row gives: an all-zero word of either stream, an unassigned major opcode, a constant selector of 5, a
specifier with [9:8] = 3, and a reserved bit of a KR word. -/
theorem illformed_words : decodeTableWord 32 0 = none ∧ decodeTableWord 96 0 = none ∧ decodeTableWord 32 0xFC000000 = none ∧
    decodeTableWord 96 0x190000000000000000000000 = none ∧ decodeTableWord 96 0x010000402B14000000000000 = none ∧
    decodeTableWord 96 0x010000402C00000000000000 = none ∧ decodeTableWord 32 0x04304205 = none ∧ decodeTableWord 32 0x80000501 = none ∧
    decodeTableWord 32 0xAFF04002 = none := by
  decide +kernel

/-! ## One step, with results from the spec's tables and worked cases -/

/-- The answer of exec is a next state whose acting group satisfies `p`. -/
def runs (i : Instr) (s : State) (p : Group → Bool) : Bool := nextWith (exec i s) fun t => p t.g

/-- `s` with one lane of a v register. -/
def lv (s : State) (r : BitVec 8) (i : Nat) (bits : Word32) (tag : Tag) : State := grp s fun g => g.setReg (.v r) 0 i ⟨bits, tag⟩

/-- A lane of a v register holds these bits and this tag. -/
def has (g : Group) (r : BitVec 8) (i : Nat) (bits : Word32) (tag : Tag) : Bool := g.reg (.v r) 0 i == ⟨bits, tag⟩

/-- R320: the sum wraps, and the upper half of a signed product of -1 and 1 is all ones. -/
theorem test_add_wraps : let s := setk (setk base 1 0xFFFFFFFFFFFFFFFF) 2 1
    (runs (.kaluAdd 3 1 2) s (·.getK 3 == 0) && runs (.kaluMulh 3 1 2) s (·.getK 3 == 0xFFFFFFFFFFFFFFFF) &&
      runs (.kaluMulhu 3 1 1) s (·.getK 3 == 0xFFFFFFFFFFFFFFFE)) = true := by decide +kernel

/-- R320: signed and unsigned order differ; a shift uses six bits; CLZ of 0 is 64; k0 stays 0. -/
theorem test_kalu_corners : let s := setk (setk base 1 0x8000000000000000) 2 0x41
    (runs (.kaluMin 3 1 2) s (·.getK 3 == 0x8000000000000000) && runs (.kaluMinu 3 1 2) s (·.getK 3 == 0x41) &&
      runs (.kaluSra 3 1 2) s (·.getK 3 == 0xC000000000000000) && runs (.kaluShl 3 1 2) s (·.getK 3 == 0) &&
      runs (.kaluClz 3 0) s (·.getK 3 == 64) && runs (.kaluPopc 3 2) s (·.getK 3 == 2) &&
      runs (.kaluAndn 3 1 2) s (·.getK 3 == 0x8000000000000000) && runs (.kaluAdd 0 1 2) s (·.getK 0 == 0)) = true := by decide +kernel

/-- R322: the worked case of la k3, 0x123456789ABC, and li k3, -5. -/
theorem test_li_lis : (runs (.li 3 0x12) base (·.getK 3 == 0x12) && runs (.lis 3 0x34567) (setk base 3 0x12) (·.getK 3 == 0x1234567) &&
    runs (.lis 3 0x89ABC) (setk base 3 0x1234567) (·.getK 3 == 0x123456789ABC) && runs (.li 3 0xFFFFB) base (·.getK 3 == 0xFFFFFFFFFFFFFFFB)) = true := by
  decide +kernel

/-- R323: cmpi.ltu c0, k1, -1 is clear only where k1 is all ones. -/
theorem test_cmpi_ltu : (runs (.cmpi 4 0 1 0x3FFF) (setk base 1 0xFFFFFFFFFFFFFFFE) (·.getC 0) &&
    runs (.cmpi 4 0 1 0x3FFF) (setk base 1 0xFFFFFFFFFFFFFFFF) (fun g => !g.getC 0) && runs (.cmpi 2 7 1 0x3FFF) (setk base 1 (0 - 2)) (·.getC 7)) = true := by
  decide +kernel

/-- R327: the worked case: at T + 4, loop k5 goes back to T while the count is not 0, and falls through at 0. -/
theorem test_loop : let s := fun (n : Word) => setk (grp base fun g => { g with cpc := 0x2004 }) 5 n
    (runs (.loop 5 0x3FFF) (s 2) (fun g => g.getK 5 == 1 && g.cpc == 0x2000) && runs (.loop 5 0x3FFF) (s 1) (fun g => g.getK 5 == 0 && g.cpc == 0x2008) &&
      runs (.loop 5 0x3FFF) (s 0) (fun g => g.getK 5 == 0xFFFFFFFFFFFFFFFF && g.cpc == 0x2000)) = true := by decide +kernel

/-- R326: jr.l k62 jumps to the old link and leaves the new one. -/
theorem test_jr_link : runs (.jrL 62) (setk base 62 0x3000) (fun g => g.cpc == 0x3000 && g.getK 62 == base.g.cpc + 4) = true := by decide +kernel

/-- R329: an 8-bit load sign-extends under x, a 16-bit one extends with zeros; the value lands when the load completes. -/
theorem test_ldk_sign : let s := setk (put base 0x4000 [0x80, 0x01]) 5 0x4000
    (runs (.ldk 3 5 0 1 0) s (fun g => g.gl.map (·.land) == [[.k 3 0xFFFFFFFFFFFFFF80]] && g.getK 3 == 0) &&
      runs (.ldk 3 5 1 0 0) s (fun g => g.gl.map (·.land) == [[.k 3 0x180]])) = true := by
  decide +kernel

/-- `iadd.sat v5, v1, 100` (the worked case of R374): saturated, and without .sat wrapped; the tag is 0. -/
theorem test_iadd_sat : let s := lv base 1 0 0x7FFFFFC0 9
    let f := lw 0 ⟨false, 0⟩ (.v 5) (.v 1) .imm (.v 0) 0 0 1 100
    (runs (.iadd f) s (has · 5 0 0x7FFFFFFF 0) && runs (.iadd { f with sat := 0 }) s (has · 5 0 0x80000024 0) &&
      decodeTableWord 96 0x010001401A00000100000064 == some (.iadd f)) = true := by decide +kernel

/-- R263: the worked case of cancellation in three FP32 steps: tags 14, 14 and 24. -/
theorem test_tags_cancel : let f := lw 0 ⟨false, 0⟩ (.v 5) (.v 1) (.v 2) (.v 0) 0 0 0 0
    (runs (.fsub f) (lv (lv base 1 0 0x3F802000 24) 2 0 0x3F800000 24) (has · 5 0 0x3A800000 14) &&
      runs (.fmul f) (lv (lv base 1 0 0x3A800000 14) 2 0 0x40400000 24) (has · 5 0 0x3B400000 14) &&
      runs (.fadd f) (lv (lv base 1 0 0x3B400000 14) 2 0 0x44800000 24) (has · 5 0 0x44800018 24)) = true := by decide +kernel

/-- R128, R377: the worked case of one tag for a pair, fadd.bf16 v9, v1, v2; with FMT[11:6] = 4 the word traps. -/
theorem test_tag_pair : let f := lw 0 ⟨false, 0⟩ (.v 9) (.v 1) (.v 2) (.v 0) 3 0 0 0
    let s := lv (lv base 1 0 0x43803F80 8) 2 0 0x3F80BF7E 8
    let t := grp s fun g => { g with lfmt := 4 * 64 }
    (runs (.fadd f) s (has · 9 0 0x43803C00 1) && runs (.fadd f) t (fun g => has g 9 0 0x43803C00 1 && g.inHandler && lane g.trapLanes.toNat 0)) = true := by
  decide +kernel

/-- R384-R386: the worked case of `cvt.e4m3.f32 v6, v2` with FMT[4] = 0 and FMT[4] = 1, in the table's five lanes. -/
theorem test_cvt_e4m3 : let s := lv (lv (lv (lv (lv base 2 0 0x43FA0000 24) 2 1 0x3E99999A 24) 2 2 0x3A83126F 24) 2 3 0x3A6BEDFA 24) 2 4 0xC3E00000 24
    let f := lw 0 ⟨false, 0⟩ (.v 6) (.v 2) (.v 0) (.v 0) 4 7 0 0
    (runs (.cvt f) s (fun g => has g 6 0 0x7E 0 && has g 6 1 0x2A 4 && has g 6 2 0x01 1 && has g 6 3 0 0 && has g 6 4 0xFE 4) &&
      runs (.cvt f) (grp s fun g => { g with lfmt := 0x10 }) (fun g => has g 6 0 0x7F 0 && has g 6 4 0xFE 4) &&
      decodeTableWord 96 0x400001802000004E00000000 == some (.cvt f)) = true := by decide +kernel

/-- R389: the worked case of `tags.f32 v3, v3, 30`: 1.5 gets tag 24 and +infinity tag 0, and both lanes trap. -/
theorem test_tags : let s := lv (lv (grp base fun g => { g with cur := 3, live := 3 }) 3 0 0x3FC00000 24) 3 1 0x7F800000 24
    let f := lw 0 ⟨false, 0⟩ (.v 3) (.v 3) .imm (.v 0) 0 0 0 30
    (runs (.tags f) s (fun g => has g 3 0 0x3FC00000 24 && has g 3 1 0x7F800000 0 && g.trapLanes == 3) &&
      runs (.tags { f with imm := 20 }) s (fun g => has g 3 0 0x3FC00000 20 && g.trapLanes == 2)) = true := by decide +kernel

/-- R402: the worked case of a scan with a helper lane: lanes 0 and 1 hold 2^24 and -16777214, lane 2 is masked off. -/
theorem test_scan : let s := lv (lv (lv (grp base fun g => { g with cur := 7, live := 7, m := [(2, 0xB)] }) 4 0 0x4B800000 24) 4 1 0xCB7FFFFE 24) 4 2 0x40E00000 24
    let f := fun (b : BitVec 4) => lw b ⟨false, 2⟩ (.v 6) (.v 4) (.v 0) (.v 0) 0 0 0 0
    (runs (.gscan (f 0)) s (fun g => has g 6 0 0x4B800000 24 && has g 6 1 0x40000000 1 && has g 6 2 0 0) &&
      runs (.gscan (f 8)) s (fun g => has g 6 0 0 24 && has g 6 1 0x4B800000 24) && runs (.gred (f 0)) s (fun g => has g 6 0 0x40000000 1 && has g 6 1 0x40000000 1)) = true := by
  decide +kernel

/-- R393: the worked case of a uniform branch: ISET.LT against zero, then YIELD.BALLOT queues the ballot with CUR above it. -/
theorem test_ballot : let s := lv (grp base fun g => { g with cur := 3, running := true }) 7 1 0x80000000 0
    (runs (.iset (lw 2 ⟨false, 0⟩ (.v 1) (.v 7) .zero (.v 0) 0 0 0 0)) s (fun g => has g 1 0 0 0 && has g 1 1 1 0) &&
      runs (.yield (lw 1 ⟨false, 0⟩ (.v 0) (.v 1) (.v 0) (.v 0) 0 0 0 0)) (lv s 1 1 1 0) (·.cq == [0x300000002])) = true := by decide +kernel

/-- R341, R144: BRK enters the handler with its code; R328: END stops the control stream. -/
theorem test_brk_end : (runs (.brk 0x12345) (tm base fun t => { t with type := { t.type with trapV := 0x9000 } })
      (fun g => g.inHandler && g.cpc == 0x9000 && g.trapV == 0x9000 && g.trapPc == base.g.cpc && g.trapInfo1 == base.g.cpc + 4 && g.trapInfo0.extractLsb' 8 56 == 0x12345000001) &&
    runs .ctlEnd base (·.ended) && runs .nop base (fun g => g.cpc == base.g.cpc + 4 && g.getK 1 == base.g.getK 1)) = true := by decide +kernel


/-- R311: a float read of laneid is that integer, whatever the source format: cvt.f32.e4m3 of laneid in lane 17. -/
theorem test_cvt_laneid : let s := grp base fun g => { g with cur := 0x20000, live := 0x20000 }
    runs (.cvt (lw 4 ⟨false, 0⟩ (.v 5) .laneid (.v 0) (.v 0) 0 0 0 0)) s (fun g => (g.reg (.v 5) 0 17).bits == 0x41880000) = true := by
  decide +kernel

/-- R263 step 6: the smallest BF16 subnormal, widened to FP32 by UNPK, has no more steps below it than its exponent leaves. -/
theorem test_unpk_subnormal : let f := lw 0 ⟨false, 0⟩ (.v 5) (.v 1) (.v 0) (.v 0) 3 0 0 0
    runs (.unpk f) (lv base 1 0 0x00000001 24) (has · 5 0 0x00010000 17) = true := by decide +kernel

/-- R172, R311: FADD adds the constant `one` as a float, once for each of two lanes at the address. -/
theorem test_atom_fadd_one : nextWith (exec (.atom { memFields 2 with ty := 9, b := .one }) (pointed 3)) (fun t =>
    t.bytesAt 0x40004000 4 == [0, 0, 0, 0x40]) = true := by decide +kernel
end Sys2Proof.Tests
end

section
/-! The settled form (the model's own, log 72) holds at reset, and every step keeps
it: each step ends in `State.settle`, which writes to the memory that the step began with and clears what the step kept.  A
word that is under way between two steps (`State.mid`, log 53) is no part of the settled form. -/

namespace Sys2Proof.Machine

/-- A result that is followed by a change of the state is a next state only if it was one before. -/
theorem Res.andThen_eq_next {r : Res} {f : State → State} {t : State} :
    r.andThen f = .next t ↔ ∃ u, r = .next u ∧ f u = t := by
  cases r <;> simp [Res.andThen]

/-- Whatever its turn does, a step ends by settling on the memory that it began with. -/
theorem step_ends_settling {s t : State} (h : step s = .next t) : ∃ u : State, t = u.settle s.mem := by
  unfold step at h
  split at h
  case h_1 =>
    injection h with h
    exact ⟨_, h.symm⟩
  case h_2 =>
    obtain ⟨u, -, hu⟩ := Res.andThen_eq_next.mp h
    exact ⟨u, hu.symm⟩

/-- What `settle` leaves is settled if the memory that it writes to is in canonical form. -/
theorem State.settle_settled (u : State) {mem : List Host.Cell} (h : Memory.wf mem = true) : Settled (u.settle mem) where
  mem_wf := Memory.flush_wf _ h
  stores_nil := rfl
  accesses_nil := rfl
  limit_none := rfl
  marks_nil := ⟨rfl, rfl⟩
  paged_false := rfl

/-- Settles O54: a step ends in `settle`, and the writes of the step keep the canonical form of memory (logs 53, 72). -/
theorem settledKept : Obligations.SettledKept := by
  intro s t hs ht
  obtain ⟨u, rfl⟩ := step_ends_settling ht
  exact u.settle_settled hs.mem_wf

/-- Settles O53: memory is empty at reset, and each field that the settled form speaks of has its start value (log 72). -/
theorem resetSettled : Obligations.ResetSettled where
  mem_wf := Memory.wf_nil
  stores_nil := rfl
  accesses_nil := rfl
  limit_none := rfl
  marks_nil := ⟨rfl, rfl⟩
  paged_false := rfl

end Sys2Proof.Machine
end
